-- ==== Sys2Proof/Word.lean ====
section
/-! DEFINITION. The word types of the PSR block (00_scope.md R6, R7). -/

namespace Sys2Proof

/-- An IEEE 754 binary32 value held as its 32-bit pattern: sign bit 31, exponent bits 30:23,
fraction bits 22:0 (00_scope.md R7). -/
abbrev F32 := BitVec 32

/-- One 16-bit half of a slot, and a compare count (20_memory.md R54; 10_state.md R27). -/
abbrev U16 := BitVec 16

/-- A diagnostic counter (10_state.md R36, R37). -/
abbrev U32 := BitVec 32

/-- One byte of an event word or of the slot region. -/
abbrev Byte := BitVec 8

end Sys2Proof
end

