-- ==== Sys2Proof/Syntax.lean ====
section
/-! DEFINITION. The events of the PSR block: one constructor for each row of spec/opcode_table.json
(30_encoding.md R70 to R75). -/

namespace Sys2Proof

/-- An event of the block. Operands are f32 patterns taken as they are (30_encoding.md R73). The constructors of the
unknown host codes carry the code byte of their range (40_host_commands.md R106); `Instr.wellFormed` checks
that it lies in the range. -/
inductive Instr where
  /-- SET_SLOT 0, code 0x00 (40_host_commands.md R91). -/
  | setV (v : F32)
  /-- SET_SLOT 1, code 0x01 (R92). -/
  | setW (w : F32)
  /-- SET_SLOT 2, code 0x02 (R93). -/
  | setL (l : F32)
  /-- SET_SLOT 3, code 0x03 (R94). -/
  | setR (r : F32)
  /-- SET_SLOT 4, code 0x04 (R95). -/
  | setGrip (m : F32)
  /-- SET_SLOT 5, code 0x05 (R96). -/
  | setHe (e : F32)
  /-- SET_SLOT 6, code 0x06 (R97). -/
  | setTe (t : F32)
  /-- SET_SLOT 7, code 0x07 (R98). -/
  | setGx (x : F32)
  /-- SET_SLOT 8, code 0x08 (R99). -/
  | setGy (y : F32)
  /-- SET_SLOT 9, code 0x09 (R100). -/
  | setGth (th : F32)
  /-- GET_STATUS 0, code 0x10 (R102). -/
  | getStatus0
  /-- GET_STATUS 1, code 0x11 (R103). -/
  | getStatus1
  /-- GET_STATUS 2, code 0x12 (R104). -/
  | getStatus2
  /-- GET_STATUS 3, code 0x13 (R105). -/
  | getStatus3
  /-- SET_DUTY 1, code 0x20 (43_pwm.md R186). -/
  | setDuty1 (p : F32)
  /-- SET_DUTY 2, code 0x21 (R187). -/
  | setDuty2 (p : F32)
  /-- SET_DUTY 3, code 0x22 (R188). -/
  | setDuty3 (p : F32)
  /-- SET_DUTY 4, code 0x23 (R189). -/
  | setDuty4 (p : F32)
  /-- IK_GOAL, code 0x30 (41_kinematics.md R130). -/
  | ikGoal (xs ys ths xg yg thg : F32)
  /-- TICK_1MS, code 0x40 (42_dispatch.md R140). -/
  | tick1ms
  /-- TICK_10MS, code 0x41 (R165). -/
  | tick10ms
  /-- TICK_50MS, code 0x42 (R166). -/
  | tick50ms
  /-- RESET, code 0x7F (70_reset_and_hazards.md R230). -/
  | reset
  /-- Unknown host codes 0x0A and 0x0B, format E1 (40_host_commands.md R106). -/
  | unknown0A (code : Byte) (a : F32)
  /-- Unknown host codes 0x0C to 0x0F, format E1 (R106). -/
  | unknown0C (code : Byte) (a : F32)
  /-- Unknown host codes 0x14 to 0x17, format E0 (R106). -/
  | unknown14 (code : Byte)
  /-- Unknown host codes 0x18 to 0x1F, format E0 (R106). -/
  | unknown18 (code : Byte)
deriving DecidableEq, Repr

end Sys2Proof
end

