-- ==== Sys2Proof/WellFormed.lean ====
section
/-! DEFINITION. Which terms of `Instr` stand for an event word: the code byte of an unknown host code lies in its
row's range (30_encoding.md R75). Every other term does. -/

namespace Sys2Proof

/-- The checks on an event as syntax (30_encoding.md R75). -/
def Instr.wellFormed : Instr → Bool
  | .unknown0A code _ => decide (0x0A ≤ code.toNat ∧ code.toNat ≤ 0x0B)
  | .unknown0C code _ => decide (0x0C ≤ code.toNat ∧ code.toNat ≤ 0x0F)
  | .unknown14 code => decide (0x14 ≤ code.toNat ∧ code.toNat ≤ 0x17)
  | .unknown18 code => decide (0x18 ≤ code.toNat ∧ code.toNat ≤ 0x1F)
  | .setV _ | .setW _ | .setL _ | .setR _ | .setGrip _ | .setHe _ | .setTe _ | .setGx _ | .setGy _ | .setGth _
  | .getStatus0 | .getStatus1 | .getStatus2 | .getStatus3
  | .setDuty1 _ | .setDuty2 _ | .setDuty3 _ | .setDuty4 _ | .ikGoal _ _ _ _ _ _
  | .tick1ms | .tick10ms | .tick50ms | .reset => true

end Sys2Proof
end

