-- ==== Sys2Proof/Decode.lean ====
section
/-! DEFINITION. The decoder of event words and the encoder (30_encoding.md R71 to R76). An event word is the list of
its bytes, the code byte first and each operand's most significant byte first ("most significant field first",
R71), so the word 0x02_415E6666 is the list 02, 41, 5E, 66, 66. -/

namespace Sys2Proof

/-- Why a list of bytes is no event word. -/
inductive DecodeError where
  /-- There is no code byte. -/
  | emptyWord
  /-- The code spells no event: `INVALID` (30_encoding.md R76). -/
  | invalidCode (code : Byte)
  /-- The bytes after the code are not those of the code's format (30_encoding.md R71, R72; log entry 15). -/
  | wrongLength (code : Byte)
deriving DecidableEq, Repr

/-- What a code byte selects: its format and its event, still waiting for the operands (30_encoding.md R72, R74). -/
inductive Shape where
  | e0 (i : Instr)
  | e1 (f : F32 → Instr)
  | e6 (f : F32 → F32 → F32 → F32 → F32 → F32 → Instr)
  | invalid

/-- The opcode map (30_encoding.md R74, R75, R76): a function of the code byte alone (R77). -/
def shapeOf (code : Byte) : Shape :=
  match code.toNat with
  | 0x00 => .e1 .setV
  | 0x01 => .e1 .setW
  | 0x02 => .e1 .setL
  | 0x03 => .e1 .setR
  | 0x04 => .e1 .setGrip
  | 0x05 => .e1 .setHe
  | 0x06 => .e1 .setTe
  | 0x07 => .e1 .setGx
  | 0x08 => .e1 .setGy
  | 0x09 => .e1 .setGth
  | 0x0A | 0x0B => .e1 (.unknown0A code)
  | 0x0C | 0x0D | 0x0E | 0x0F => .e1 (.unknown0C code)
  | 0x10 => .e0 .getStatus0
  | 0x11 => .e0 .getStatus1
  | 0x12 => .e0 .getStatus2
  | 0x13 => .e0 .getStatus3
  | 0x14 | 0x15 | 0x16 | 0x17 => .e0 (.unknown14 code)
  | 0x18 | 0x19 | 0x1A | 0x1B | 0x1C | 0x1D | 0x1E | 0x1F => .e0 (.unknown18 code)
  | 0x20 => .e1 .setDuty1
  | 0x21 => .e1 .setDuty2
  | 0x22 => .e1 .setDuty3
  | 0x23 => .e1 .setDuty4
  | 0x30 => .e6 .ikGoal
  | 0x40 => .e0 .tick1ms
  | 0x41 => .e0 .tick10ms
  | 0x42 => .e0 .tick50ms
  | 0x7F => .e0 .reset
  | _ => .invalid

/-- The length in bytes of an event word, told from the group `code[7:4]` alone (30_encoding.md R71, R72): 5 for E1, 25 for
E6, 1 for E0. -/
def wordLength (code : Byte) : Nat :=
  match code.toNat / 16 with
  | 0 | 2 => 5
  | 3 => 25
  | _ => 1

/-- An operand field from its four bytes, the most significant first (30_encoding.md R71). -/
def operandOf (b3 b2 b1 b0 : Byte) : F32 := b3 ++ b2 ++ b1 ++ b0

/-- All operand fields of a word, or nothing if the bytes are no whole number of fields. -/
def operandsOf : List Byte → Option (List F32)
  | [] => some []
  | b3 :: b2 :: b1 :: b0 :: rest => (operandsOf rest).map (operandOf b3 b2 b1 b0 :: ·)
  | _ => none

/-- The decoder (30_encoding.md R71 to R76): total on any bytes, rejecting by name. -/
def decode (word : List Byte) : Except DecodeError Instr :=
  match word with
  | [] => .error .emptyWord
  | code :: rest =>
    match shapeOf code, operandsOf rest with
    | .invalid, _ => .error (.invalidCode code)
    | .e0 i, some [] => .ok i
    | .e1 f, some [a] => .ok (f a)
    | .e6 f, some [a0, a1, a2, a3, a4, a5] => .ok (f a0 a1 a2 a3 a4 a5)
    | _, _ => .error (.wrongLength code)

/-- The four bytes of an operand field, the most significant first (30_encoding.md R71). -/
def bytesOfOperand (a : F32) : List Byte :=
  [a.extractLsb' 24 8, a.extractLsb' 16 8, a.extractLsb' 8 8, a.extractLsb' 0 8]

/-- The code byte of an event (30_encoding.md R74). -/
def Instr.code : Instr → Byte
  | .setV _ => 0x00#8
  | .setW _ => 0x01#8
  | .setL _ => 0x02#8
  | .setR _ => 0x03#8
  | .setGrip _ => 0x04#8
  | .setHe _ => 0x05#8
  | .setTe _ => 0x06#8
  | .setGx _ => 0x07#8
  | .setGy _ => 0x08#8
  | .setGth _ => 0x09#8
  | .getStatus0 => 0x10#8
  | .getStatus1 => 0x11#8
  | .getStatus2 => 0x12#8
  | .getStatus3 => 0x13#8
  | .setDuty1 _ => 0x20#8
  | .setDuty2 _ => 0x21#8
  | .setDuty3 _ => 0x22#8
  | .setDuty4 _ => 0x23#8
  | .ikGoal _ _ _ _ _ _ => 0x30#8
  | .tick1ms => 0x40#8
  | .tick10ms => 0x41#8
  | .tick50ms => 0x42#8
  | .reset => 0x7F#8
  | .unknown0A code _ => code
  | .unknown0C code _ => code
  | .unknown14 code => code
  | .unknown18 code => code

/-- The operand fields of an event, in the order of its word (30_encoding.md R71). -/
def Instr.operands : Instr → List F32
  | .setV a | .setW a | .setL a | .setR a | .setGrip a | .setHe a | .setTe a | .setGx a | .setGy a | .setGth a => [a]
  | .setDuty1 a | .setDuty2 a | .setDuty3 a | .setDuty4 a => [a]
  | .unknown0A _ a | .unknown0C _ a => [a]
  | .ikGoal xs ys ths xg yg thg => [xs, ys, ths, xg, yg, thg]
  | .getStatus0 | .getStatus1 | .getStatus2 | .getStatus3 => []
  | .tick1ms | .tick10ms | .tick50ms | .reset => []
  | .unknown14 _ | .unknown18 _ => []

/-- The encoder: the event word of a well-formed event (30_encoding.md R71, R74). -/
def encode (i : Instr) : List Byte := i.code :: i.operands.flatMap bytesOfOperand

/-- The bytes of an event word given as one number of `n` bytes, the most significant byte first: bit 0 of the number is
the least significant bit of the word, as in the formats of 30_encoding.md R71 and in spec/opcode_table.json. -/
def bytesOfNumber : Nat → Nat → List Byte
  | 0, _ => []
  | n + 1, w => BitVec.ofNat 8 (w >>> (8 * n)) :: bytesOfNumber n w

/-- The instruction the decoder reads from an event word of `nbits` bits whose bits are `w` (the host's check). -/
def decodeTableWord (nbits w : Nat) : Option Instr :=
  match decode (bytesOfNumber (nbits / 8) w) with
  | .ok i => some i
  | .error _ => none

/-- The four ports events arrive on (30_encoding.md R70). -/
inductive Port where
  | host
  | actuator
  | tick
  | reset
deriving DecidableEq, Repr

/-- The port an event arrives on (30_encoding.md R70). -/
def Instr.port : Instr → Port
  | .setV _ | .setW _ | .setL _ | .setR _ | .setGrip _ | .setHe _ | .setTe _ | .setGx _ | .setGy _ | .setGth _
  | .getStatus0 | .getStatus1 | .getStatus2 | .getStatus3
  | .unknown0A _ _ | .unknown0C _ _ | .unknown14 _ | .unknown18 _ => .host
  | .setDuty1 _ | .setDuty2 _ | .setDuty3 _ | .setDuty4 _ | .ikGoal _ _ _ _ _ _ => .actuator
  | .tick1ms | .tick10ms | .tick50ms => .tick
  | .reset => .reset

/-! The pseudo-events (30_encoding.md R79): host macros, each the events it stands for, in that order. -/

/-- `DIRECT v, w`. -/
def pseudoDirect (v w : F32) : List Instr :=
  [.setTe 0x00000000#32, .setGx 0x00000000#32, .setL 0x00000000#32, .setR 0x00000000#32, .setV v, .setW w]

/-- `TURN_LEFT l`. -/
def pseudoTurnLeft (l : F32) : List Instr := [.setTe 0x00000000#32, .setGx 0x00000000#32, .setL l]

/-- `TRACK te, he`. -/
def pseudoTrack (te he : F32) : List Instr := [.setHe he, .setTe te]

/-- `GOAL x, y, th`. -/
def pseudoGoal (x y th : F32) : List Instr := [.setTe 0x00000000#32, .setGy y, .setGth th, .setGx x]

/-- `GRIP m`. -/
def pseudoGrip (m : F32) : List Instr := [.setGrip m]

/-- `TICK`. -/
def pseudoTick : List Instr := [.tick1ms]

end Sys2Proof
end

