-- ==== Sys2Proof/Config.lean ====
section
/-! DEFINITION. The configuration of the PSR block (00_scope.md section 4): the constants the spec fixes, the
OPEN ones, and the free values. An OPEN constant or a free value is opaque, so no proof can see what it is. -/

namespace Sys2Proof.Config

/-- `FP_SUBNORMAL` (00_scope.md section 4; 92_eei_decisions.md D3). Under `ftz` a subnormal result becomes a zero of
its sign. Whether the operands of the arithmetic and the operands of a comparison are flushed as well the
spec does not say ("if the comparison flushes it", 42_dispatch.md R142), so `ftz` carries both as open flags.
DESIGN CHOICE (log entry 9). -/
inductive FpSubnormal where
  | ieee
  | ftz (operands compares : Bool)
deriving DecidableEq, Repr, Inhabited

/-- `TEAR_BITS` (20_memory.md R54; 92_eei_decisions.md D13): the granularity at which a racing read may tear a slot. -/
inductive TearBits where
  | b16
  | b32
deriving DecidableEq, Repr, Inhabited

/-- The constants of the block that are f32 values or choices (00_scope.md section 4; 10_state.md R29). State holds one
of these and no event writes it (00_scope.md R5). -/
structure Params where
  /-- wheel radius `RW` -/
  rw : F32
  /-- the length `R` of the matrix formula -/
  r : F32
  /-- duty gain `F1` -/
  f1 : F32
  /-- duty offset `F2` -/
  f2 : F32
  /-- regulator constant `K` -/
  k : F32
  /-- slope `TF_A[1]` -/
  tfA1 : F32
  /-- slope `TF_A[2]` -/
  tfA2 : F32
  /-- slope `TF_A[3]` -/
  tfA3 : F32
  /-- slope `TF_A[4]` -/
  tfA4 : F32
  /-- intercept `TF_B[1]` -/
  tfB1 : F32
  /-- intercept `TF_B[2]` -/
  tfB2 : F32
  /-- intercept `TF_B[3]` -/
  tfB3 : F32
  /-- intercept `TF_B[4]` -/
  tfB4 : F32
  /-- forward speed `V_TRACK` of TrajectoryFollow -/
  vTrack : F32
  /-- duty percent `GRIP_DUTY` of a moving gripper channel -/
  gripDuty : F32
  /-- `FP_SUBNORMAL` -/
  fp : FpSubnormal
  /-- `TEAR_BITS` -/
  tearBits : TearBits
deriving DecidableEq, Repr, Inhabited

/-- The OPEN function parameters (41_kinematics.md R124, R128): total, of their operands alone. `arc` takes the start
pose and the goal pose and answers `(wl, wr)`. -/
structure GoalSeekFunctions where
  /-- `GS_STRAIGHT_SPEED` -/
  straightSpeed : F32 → F32
  /-- `GS_ARC` -/
  arc : F32 → F32 → F32 → F32 → F32 → F32 → F32 × F32
deriving Inhabited

/-- The values of the OPEN constants of this build (log entry 10). -/
opaque openParams : Params

/-- The parameters of the block: the OPEN ones, with `TEAR_BITS` at the spec's default 16 (D13; log entry 11). -/
def params : Params := { openParams with tearBits := .b16 }

/-- The OPEN functions of this build (log entry 10). -/
opaque goalSeekFunctions : GoalSeekFunctions

/-- `SLOT_BASE` counted in 4-byte units: OPEN but 4-byte aligned (92_eei_decisions.md D12). -/
opaque slotBaseWords : Nat

/-- `SLOT_BASE`: the byte address of slot 0 in the shared RAM (20_memory.md R50, R53). No rule's result uses it. -/
def slotBase : Nat := 4 * slotBaseWords

/-- `HE_BRK` = 1.57 (00_scope.md R9). -/
def heBrk : F32 := 0x3FC8F5C3#32
/-- `TE_THRESH` = 50 (00_scope.md R9). -/
def teThresh : F32 := 0x42480000#32
/-- `EPS` = 0.002 (00_scope.md R9). -/
def eps : F32 := 0x3B03126F#32
/-- `VMAX` = 0.15 (00_scope.md R9). -/
def vMax : F32 := 0x3E19999A#32
/-- `PERIOD` = 30000 as a binary32 value (00_scope.md R9; 43_pwm.md R182). -/
def periodF32 : F32 := 0x46EA6000#32
/-- 100 (00_scope.md R9). -/
def hundred : F32 := 0x42C80000#32
/-- 2.0, of the matrix formula (41_kinematics.md R120). -/
def two : F32 := 0x40000000#32
/-- 1.0 (41_kinematics.md R120; 42_dispatch.md R160). -/
def one : F32 := 0x3F800000#32
/-- +0.0 (00_scope.md R9). -/
def zero : F32 := 0x00000000#32

/-- The sign (bit 22) and the payload (bits 21:0) of a quiet NaN that an arithmetic primitive produces, left free
(00_scope.md R8; 92_eei_decisions.md D31): of the primitive (a number) and its operands (log entry 8). -/
opaque freeNan : Nat → F32 → F32 → BitVec 23

/-- `draw(u16)`: the compare count of an out-of-range duty (43_pwm.md R181), fresh for each draw (log entry 7). -/
opaque freeCompare : Nat → U16

/-- `draw(f32)`, one half at a time: what an undriven pose port reads (10_state.md R33), fresh for each read (log
entry 6). -/
opaque freePose : Nat → U16

/-- The order of the sampling steps where the schedule in State does not say (20_memory.md R58; log entry 2). -/
opaque freeOrder : Nat → Nat

end Sys2Proof.Config
end

