-- ==== Sys2Proof/Machine/Float.lean ====
section
/-! DEFINITION. The binary32 arithmetic of the block (00_scope.md R7, R8; 92_eei_decisions.md D3): each primitive takes its
operands apart into exact integers, computes exactly, and rounds once to nearest even. Nothing raises a
condition or sets a flag (60_exceptions.md R202). -/

namespace Sys2Proof.Machine

open Sys2Proof.Config

/-- Bit 31 (00_scope.md R7). -/
def signOf (x : F32) : Bool := x.getLsbD 31

/-- Bits 30:23 as a number (R7). -/
def exponentOf (x : F32) : Nat := x.toNat / 2 ^ 23 % 2 ^ 8

/-- Bits 22:0 as a number (R7). -/
def fractionOf (x : F32) : Nat := x.toNat % 2 ^ 23

/-- The pattern without its sign bit, as a number. -/
def magnitudeOf (x : F32) : Nat := x.toNat % 2 ^ 31

/-- A NaN: exponent all ones, fraction not 0. -/
def isNan (x : F32) : Bool := decide (0x7F800000 < magnitudeOf x)

/-- A zero of either sign or a subnormal pattern: exponent 0. -/
def isSubnormalOrZero (x : F32) : Bool := decide (magnitudeOf x < 0x00800000)

/-- The pattern of a sign and a magnitude below 2^31. -/
def withSign (s : Bool) (mag : Nat) : F32 := BitVec.ofNat 32 ((if s then 2 ^ 31 else 0) + mag)

/-- A zero of the given sign. -/
def zeroOf (s : Bool) : F32 := withSign s 0

/-- An infinity of the given sign. -/
def infOf (s : Bool) : F32 := withSign s 0x7F800000

/-- `fneg` flips bit 31 exactly, also of a NaN (00_scope.md R8). -/
def fneg (x : F32) : F32 := x ^^^ 0x80000000#32

/-- `fabs` clears bit 31 exactly (R8). -/
def fabs (x : F32) : F32 := x &&& 0x7FFFFFFF#32

/-- What a pattern stands for: a NaN, an infinity, or the number `(-1)^sign * m * 2^e`. -/
inductive Unpacked where
  | nan
  | inf (sign : Bool)
  | fin (sign : Bool) (m : Nat) (e : Int)
deriving DecidableEq, Repr

/-- Whether arithmetic reads a subnormal operand as a zero (log entry 9). -/
def flushesOperands : FpSubnormal → Bool
  | .ieee => false
  | .ftz operands _ => operands

/-- Whether a comparison reads a subnormal operand as a zero (42_dispatch.md R142; log entry 9). -/
def flushesCompares : FpSubnormal → Bool
  | .ieee => false
  | .ftz _ compares => compares

/-- Whether a subnormal result becomes a zero of its sign (92_eei_decisions.md D3). -/
def flushesResults : FpSubnormal → Bool
  | .ieee => false
  | .ftz _ _ => true

/-- An operand of an arithmetic primitive, taken apart. -/
def unpack (fp : FpSubnormal) (x : F32) : Unpacked :=
  if exponentOf x = 255 then
    if fractionOf x = 0 then .inf (signOf x) else .nan
  else if exponentOf x = 0 then
    .fin (signOf x) (if flushesOperands fp then 0 else fractionOf x) (-149)
  else .fin (signOf x) (fractionOf x + 2 ^ 23) ((exponentOf x : Int) - 150)

/-- `n / 2^d` rounded to the nearest integer, a tie to the even one. -/
def roundShift (n d : Nat) : Nat :=
  if d = 0 then n
  else
    let q := n / 2 ^ d
    let r := n % 2 ^ d
    if 2 ^ (d - 1) < r then q + 1
    else if r = 2 ^ (d - 1) then q + q % 2
    else q

/-- The exponent of the last place of the binary32 numbers near `m * 2^e` (`m` not 0): 24 significant bits, but
never below 2^-149. -/
def lastPlace (m : Nat) (e : Int) : Int := max ((m.log2 : Int) + e - 23) (-149)

/-- The magnitude pattern of `m * 2^e` rounded to nearest even, an overflow giving the infinity's. With last place
`2^q` and `n` units of it the pattern is `(q + 149) * 2^23 + n`: that a carry out of the fraction lands in the
exponent is the format's own property. -/
def roundMagnitude (m : Nat) (e : Int) : Nat :=
  if m = 0 then 0
  else
    let q := lastPlace m e
    let n := roundShift (m * 2 ^ (e - q).toNat) (q - e).toNat
    min ((q + 149).toNat * 2 ^ 23 + n) 0x7F800000

/-- The result flush of `FTZ`, on the rounded magnitude (log entry 9). -/
def flushResult (fp : FpSubnormal) (mag : Nat) : Nat :=
  if flushesResults fp && decide (mag < 0x00800000) then 0 else mag

/-- Round once (00_scope.md R8): the binary32 value of `(-1)^s * m * 2^e`. -/
def roundF32 (fp : FpSubnormal) (s : Bool) (m : Nat) (e : Int) : F32 :=
  withSign s (flushResult fp (roundMagnitude m e))

/-- The quiet NaN a primitive produces: exponent all ones, the quiet bit 22 set, sign and payload free (00_scope.md R8;
log entry 8). `op` numbers the primitive. -/
def producedNan (op : Nat) (a b : F32) : F32 :=
  let free := (freeNan op a b).toNat
  BitVec.ofNat 32 (free / 2 ^ 22 * 2 ^ 31 + 0x7FC00000 + free % 2 ^ 22)

/-- `(-1)^s * m` as an integer. -/
def signedInt (s : Bool) (m : Nat) : Int := if s then -(m : Int) else m

/-- The exact sum of two finite numbers, rounded; an exact zero sum is +0.0 unless both operands are negative
(IEEE 754, round to nearest; 41_kinematics.md R122's signed zeros). -/
def addFinite (fp : FpSubnormal) (s1 : Bool) (m1 : Nat) (e1 : Int) (s2 : Bool) (m2 : Nat) (e2 : Int) : F32 :=
  let e := min e1 e2
  let v := signedInt s1 (m1 * 2 ^ (e1 - e).toNat) + signedInt s2 (m2 * 2 ^ (e2 - e).toNat)
  if v = 0 then zeroOf (s1 && s2) else roundF32 fp (decide (v < 0)) v.natAbs e

/-- The sum of two patterns; `op` numbers the primitive for the NaN it may produce. -/
def addAs (op : Nat) (fp : FpSubnormal) (a b : F32) : F32 :=
  match unpack fp a, unpack fp b with
  | .nan, _ => producedNan op a b
  | _, .nan => producedNan op a b
  | .inf s, .inf t => if s = t then infOf s else producedNan op a b
  | .inf s, .fin _ _ _ => infOf s
  | .fin _ _ _, .inf t => infOf t
  | .fin s1 m1 e1, .fin s2 m2 e2 => addFinite fp s1 m1 e1 s2 m2 e2

/-- `fadd(a, b)` (00_scope.md R8). -/
def fadd (fp : FpSubnormal) (a b : F32) : F32 := addAs 0 fp a b

/-- `fsub(a, b)` (R8): the sum with the second operand's sign flipped. -/
def fsub (fp : FpSubnormal) (a b : F32) : F32 := addAs 4 fp a (fneg b)

/-- `fmul(a, b)` (R8). -/
def fmul (fp : FpSubnormal) (a b : F32) : F32 :=
  match unpack fp a, unpack fp b with
  | .nan, _ => producedNan 1 a b
  | _, .nan => producedNan 1 a b
  | .inf s, .inf t => infOf (s ^^ t)
  | .inf s, .fin t m _ => if m = 0 then producedNan 1 a b else infOf (s ^^ t)
  | .fin s m _, .inf t => if m = 0 then producedNan 1 a b else infOf (s ^^ t)
  | .fin s1 m1 e1, .fin s2 m2 e2 => roundF32 fp (s1 ^^ s2) (m1 * m2) (e1 + e2)

/-- The quotient of two numbers to 64 binary places, with one more place that is 1 when a remainder is left: enough
for one correct rounding to 24 bits. -/
def stickyQuotient (m1 m2 : Nat) : Nat :=
  2 * (m1 * 2 ^ 64 / m2) + (if m1 * 2 ^ 64 % m2 = 0 then 0 else 1)

/-- `fdiv(a, b)` (R8): a finite number over 0 is an infinity, 0 over 0 and infinity over infinity are NaNs. -/
def fdiv (fp : FpSubnormal) (a b : F32) : F32 :=
  match unpack fp a, unpack fp b with
  | .nan, _ => producedNan 2 a b
  | _, .nan => producedNan 2 a b
  | .inf _, .inf _ => producedNan 2 a b
  | .inf s, .fin t _ _ => infOf (s ^^ t)
  | .fin s _ _, .inf t => zeroOf (s ^^ t)
  | .fin s1 m1 e1, .fin s2 m2 e2 =>
    if m2 = 0 then (if m1 = 0 then producedNan 2 a b else infOf (s1 ^^ s2))
    else roundF32 fp (s1 ^^ s2) (stickyQuotient m1 m2) (e1 - e2 - 65)

/-- The integer square root below `root + 2^bits`, bit by bit from the top: `root` is the part already found. -/
def isqrtFrom : Nat → Nat → Nat → Nat
  | 0, _, root => root
  | bits + 1, n, root =>
    if (root + 2 ^ bits) * (root + 2 ^ bits) ≤ n then isqrtFrom bits n (root + 2 ^ bits)
    else isqrtFrom bits n root

/-- The integer square root of a number below 2^86. -/
def isqrt (n : Nat) : Nat := isqrtFrom 43 n 0

/-- The root of a number, with one more place that is 1 when the root is not exact. -/
def stickyRoot (n : Nat) : Nat := 2 * isqrt n + (if isqrt n * isqrt n = n then 0 else 1)

/-- `fsqrt(a)` (R8): the root of a zero is that zero, of a negative number a NaN (41_kinematics.md R126). The exponent
is made even before the root is taken. -/
def fsqrt (fp : FpSubnormal) (a : F32) : F32 :=
  match unpack fp a with
  | .nan => producedNan 3 a a
  | .inf s => if s then producedNan 3 a a else infOf false
  | .fin s m e =>
    if m = 0 then zeroOf s
    else if s then producedNan 3 a a
    else if e % 2 = 0 then roundF32 fp false (stickyRoot (m * 2 ^ 60)) ((e - 60) / 2 - 1)
    else roundF32 fp false (stickyRoot (m * 2 ^ 61)) ((e - 61) / 2 - 1)

/-- `trunc_u16(x)` (00_scope.md R8): a finite value in `[0, 65535]` rounded toward zero. It takes the magnitude, which
makes -0.0 and what lies between it and -1 a 0 (log entry 18). -/
def truncU16 (x : F32) : U16 :=
  let e : Int := (exponentOf x : Int) - 150
  let m := if exponentOf x = 0 then 0 else fractionOf x + 2 ^ 23
  BitVec.ofNat 16 (m * 2 ^ e.toNat / 2 ^ (-e).toNat)

end Sys2Proof.Machine
end

