-- ==== Sys2Proof/Machine/Flags.lean ====
section
/-! DEFINITION. The comparisons of binary32 values. The block has no flags and no condition codes (10_state.md R22): a
comparison is a value used within one step and stored nowhere. -/

namespace Sys2Proof.Machine

open Sys2Proof.Config

/-- The number a comparison orders a non-NaN pattern by: the magnitude with its sign, so that both zeros are 0. Under
`FTZ` with flushed compares a subnormal is 0 as well (42_dispatch.md R142; log entry 9). -/
def compareKey (fp : FpSubnormal) (x : F32) : Int :=
  let mag := if flushesCompares fp && isSubnormalOrZero x then 0 else magnitudeOf x
  signedInt (signOf x) mag

/-- `a < b`: false when either operand is a NaN (00_scope.md R8). -/
def flt (fp : FpSubnormal) (a b : F32) : Bool :=
  !isNan a && !isNan b && decide (compareKey fp a < compareKey fp b)

/-- `a > b` (R8). -/
def fgt (fp : FpSubnormal) (a b : F32) : Bool := flt fp b a

/-- `a == b`: false when either operand is a NaN; `+0.0 == -0.0` (R8). -/
def feq (fp : FpSubnormal) (a b : F32) : Bool :=
  !isNan a && !isNan b && decide (compareKey fp a = compareKey fp b)

/-- `a != b`: true when either operand is a NaN (R8). -/
def fne (fp : FpSubnormal) (a b : F32) : Bool := !feq fp a b

end Sys2Proof.Machine
end

