-- ==== Sys2Proof/Machine/Matrix.lean ====
section
/-! DEFINITION. The inverse control matrix (41_kinematics.md R120): the four read-only registers of 10_state.md R28. -/

namespace Sys2Proof.Machine

open Sys2Proof.Config

/-- The registers `INV[0..1][0..1]` (10_state.md R28). -/
structure InvMatrix where
  /-- `INV[0][0]` -/
  i00 : F32
  /-- `INV[0][1]` -/
  i01 : F32
  /-- `INV[1][0]` -/
  i10 : F32
  /-- `INV[1][1]` -/
  i11 : F32
deriving DecidableEq, Repr

/-- R / (2 * RW), as R120 evaluates it. -/
def halfTrackOverRadius (p : Params) : F32 := fdiv p.fp p.r (fmul p.fp two p.rw)

/-- The matrix of the parameters, evaluated once in binary32 (41_kinematics.md R120). -/
def invOf (p : Params) : InvMatrix where
  i00 := fdiv p.fp one p.rw
  i01 := fneg (halfTrackOverRadius p)
  i10 := fdiv p.fp one p.rw
  i11 := halfTrackOverRadius p

end Sys2Proof.Machine
end

