-- ==== Sys2Proof/Machine/State.lean ====
section
/-! DEFINITION. The state of the PSR block (10_state.md section 1, R20), the moves of its environment, the reasons a step
stops, and the state after reset (70_reset_and_hazards.md R230). -/

namespace Sys2Proof.Machine

open Sys2Proof.Config

/-- Memory: the slot region as a list of (byte offset from `SLOT_BASE`, byte) pairs in one canonical form, `Memory.wf`
(20_memory.md R50). A byte that is not listed is a byte of `SLOT_RESET` = +0.0, which is 0 (10_state.md R23). -/
abbrev Memory := List Host.Cell

/-- One of the two 16-bit halves of a slot (20_memory.md R52): `lo` is bits 15:0, `hi` is bits 31:16. -/
inductive Half where
  | lo
  | hi
deriving DecidableEq, Repr

/-- `TICK_PHASE` (10_state.md R31). -/
inductive TickPhase where
  | idle
  | sampling
deriving DecidableEq, Repr

/-- The host's SET_SLOT between its two half-write steps (20_memory.md R55): the slot, the half still to be written
and its bits. -/
structure HostWrite where
  slot : Fin 10
  half : Half
  bits : U16
deriving DecidableEq, Repr

/-- A pose, as the pose input port carries it (10_state.md R33). -/
structure Pose where
  x : F32
  y : F32
  th : F32
deriving DecidableEq, Repr

/-- The four PWM channels with the spec's assignment (10_state.md R27): `CMP[1]` to `CMP[4]`. -/
inductive Channel where
  | rightWheel
  | leftWheel
  | gripForward
  | gripBackward
deriving DecidableEq, Repr

/-- ControlMode (42_dispatch.md R141): derived in each tick, not stored (10_state.md R35). -/
inductive Mode where
  | trajectoryFollow
  | goalSeek
  | directSpeed
deriving DecidableEq, Repr

/-- The branch of the goal-pose kinematics (41_kinematics.md R125). -/
inductive Branch where
  | straight
  | arc
deriving DecidableEq, Repr

/-- An observation record (10_state.md R38). -/
inductive ObsRecord where
  /-- `TickRec` -/
  | tick (mode : Mode) (wl wr dl dr d3 d4 : F32)
  /-- `DutyRec` -/
  | duty (c : Channel) (p : F32)
  /-- `IkRec` -/
  | ik (branch : Branch) (wl wr : F32)
  /-- `StatusRec` -/
  | status (value : F32)
deriving DecidableEq, Repr

/-- A move of the environment or of the schedule (20_memory.md R58, R59, R65; log entry 1): which agent acts next. -/
inductive Move where
  /-- An event word arrives on its port (30_encoding.md R70). `split` says how the schedule runs a SET_SLOT: `none`, its
  two half-writes with nothing between them; `some h`, half `h` now and the other later (20_memory.md R55). -/
  | event (split : Option Half) (word : List Byte)
  /-- The host writes the half that its SET_SLOT still owes (20_memory.md R55). -/
  | hostHalf
  /-- The tick agent samples the half of `SNAP_DONE`'s bit `k` (20_memory.md R58). -/
  | sample (k : Fin 26)
  /-- The tick agent computes (42_dispatch.md R140). -/
  | compute
  /-- The pose agent drives the pose input port, or stops driving it (10_state.md R33). -/
  | pose (p : Option Pose)
deriving DecidableEq, Repr

/-- The state. First what 10_state.md section 1 lists, then the host's write in progress (20_memory.md R55), the outputs
of the block (10_state.md R34, R38; log entry 14), and last the environment's side, which is the model's own. -/
structure State where
  /-- `SLOT[0..9]` (10_state.md R23) -/
  slots : Memory
  /-- `CURSOR` (R26) -/
  cursor : BitVec 4
  /-- `CMP[1]`, the right drive wheel (R27) -/
  cmp1 : U16
  /-- `CMP[2]`, the left drive wheel -/
  cmp2 : U16
  /-- `CMP[3]`, gripper forward -/
  cmp3 : U16
  /-- `CMP[4]`, gripper backward -/
  cmp4 : U16
  /-- `INV`, read-only (R28) -/
  inv : InvMatrix
  /-- the other constants, read-only (R29) -/
  params : Params
  /-- `SNAP[0..9]` and `SNAP_POSE` as their 26 halves, in the order of the bits of `SNAP_DONE` (R30; log entry 13) -/
  snap : Vector U16 26
  /-- `SNAP_DONE` (R30) -/
  snapDone : BitVec 26
  /-- `TICK_PHASE` (R31) -/
  tickPhase : TickPhase
  /-- `TICK_PENDING` (R32) -/
  tickPending : Bool
  /-- `DIAG_DUTY_OOR` (R36) -/
  diagDutyOor : U32
  /-- `DIAG_TICKS_SINCE_WRITE` (R37) -/
  diagTicksSinceWrite : U32
  /-- the host's half-done SET_SLOT (20_memory.md R55) -/
  hostWrite : Option HostWrite
  /-- what the status port carries in the step just taken (10_state.md R34) -/
  statusPort : Option F32
  /-- the observation trace, oldest record first (R38) -/
  trace : List ObsRecord
  /-- the pose the environment drives; `none`: each read is a draw (R33) -/
  posePort : Option Pose
  /-- how the schedule runs the SET_SLOT being performed (log entry 4) -/
  hostSplit : Option Half
  /-- the moves to come, oldest first (log entry 1) -/
  input : List Move
  /-- how many free values have been drawn (log entry 7) -/
  draws : Nat
deriving DecidableEq, Repr

/-- Why the machine stops with a fault: never. "No event faults, traps or stops the block" (60_exceptions.md R200), so
this type has no constructor. -/
inductive Fault where
deriving DecidableEq, Repr

/-- Why a step is refused. -/
inductive Refusal where
  /-- No meaning in the model yet; raised by an arm of `exec` only. Safe. -/
  | notModelled (mnemonic : String)
  /-- The code spells no event: "a model refuses it" (30_encoding.md R76). Raised by `step`. Safe. -/
  | invalidCode (code : Byte)
  /-- The list of bytes is no event word of the code's format (30_encoding.md R71; log entry 15). Raised by `step`. Safe. -/
  | malformedWord (word : List Byte)
  /-- An access to the slot region outside slots 0 to 9: "is refused" (20_memory.md R51). Raised by GET_STATUS with a
  CURSOR of 10 to 15, which no step leaves behind (10_state.md R26; log entry 16). Safe. -/
  | outsideSlotRegion (index : Nat)
deriving DecidableEq, Repr

/-- The machine right after reset (70_reset_and_hazards.md R230), with the reset value of `SNAP` and of the model's own
fields as in log entries 1, 4, 6, 7, 12 and 14, and the constants of Config (log entries 10, 11). -/
def State.reset : State where
  slots := []
  cursor := 0#4
  cmp1 := 0#16
  cmp2 := 0#16
  cmp3 := 0#16
  cmp4 := 0#16
  inv := invOf Config.params
  params := Config.params
  snap := Vector.replicate 26 0#16
  snapDone := 0#26
  tickPhase := .idle
  tickPending := false
  diagDutyOor := 0#32
  diagTicksSinceWrite := 0#32
  hostWrite := none
  statusPort := none
  trace := []
  posePort := none
  hostSplit := none
  input := []
  draws := 0

end Sys2Proof.Machine
end

