-- ==== Sys2Proof/Machine/Operands.lean ====
section
/-! DEFINITION. Where the block's operands stand: the halves of a slot and their byte offsets (20_memory.md R50, R52, R54),
the sampled values (10_state.md R30), and the pose input (R33). The address of an access is the slot index; there are
no addressing modes. -/

namespace Sys2Proof.Machine

open Sys2Proof.Config

/-- `SLOT_V`, linear velocity (10_state.md R24). -/
def slotV : Fin 10 := 0
/-- `SLOT_W`, angular velocity. -/
def slotW : Fin 10 := 1
/-- `SLOT_L`, left-turn magnitude. -/
def slotL : Fin 10 := 2
/-- `SLOT_R`, right-turn magnitude. -/
def slotR : Fin 10 := 3
/-- `SLOT_GRIP`, gripper mode. -/
def slotGrip : Fin 10 := 4
/-- `SLOT_HE`, heading error. -/
def slotHe : Fin 10 := 5
/-- `SLOT_TE`, tracking-error magnitude. -/
def slotTe : Fin 10 := 6
/-- `SLOT_GX`, goal X. -/
def slotGx : Fin 10 := 7
/-- `SLOT_GY`, goal Y. -/
def slotGy : Fin 10 := 8
/-- `SLOT_GTH`, goal heading. -/
def slotGth : Fin 10 := 9

/-- The other half. -/
def Half.other : Half → Half
  | .lo => .hi
  | .hi => .lo

/-- The byte offset of a half within its slot: the low half is at the lower address (20_memory.md R52). -/
def Half.offset : Half → Nat
  | .lo => 0
  | .hi => 2

/-- The byte offset of a half of slot `i` from `SLOT_BASE` (20_memory.md R50, R52). -/
def halfOffset (i : Fin 10) (h : Half) : Nat := 4 * i.val + h.offset

/-- The byte address of slot `i` in the shared RAM (20_memory.md R50). -/
def slotAddress (i : Fin 10) : Nat := slotBase + 4 * i.val

/-- A half of an f32 value (20_memory.md R52). -/
def halfOf (v : F32) (h : Half) : U16 :=
  match h with
  | .lo => v.extractLsb' 0 16
  | .hi => v.extractLsb' 16 16

/-- The f32 value of two halves. -/
def joinHalves (hi lo : U16) : F32 := hi ++ lo

/-- Which half of its value bit `k` of `SNAP_DONE` stands for (log entry 13). -/
def sampleHalf (k : Fin 26) : Half := if k.val % 2 = 0 then .lo else .hi

/-- The low half's bit of the value that bit `k` belongs to. -/
def loBit (k : Fin 26) : Fin 26 := ⟨2 * (k.val / 2), by omega⟩

/-- The high half's bit of the value that bit `k` belongs to. -/
def hiBit (k : Fin 26) : Fin 26 := ⟨2 * (k.val / 2) + 1, by omega⟩

/-- A component of a pose: 0 is x, 1 is y, every other number the heading. -/
def Pose.component (p : Pose) (c : Nat) : F32 :=
  match c with
  | 0 => p.x
  | 1 => p.y
  | _ => p.th

/-- `SNAP[i]` (10_state.md R30). -/
def State.snapSlot (s : State) (i : Fin 10) : F32 :=
  joinHalves (s.snap[2 * i.val + 1]'(by omega)) (s.snap[2 * i.val]'(by omega))

/-- `SNAP_POSE` (10_state.md R30). -/
def State.snapPose (s : State) : Pose where
  x := joinHalves s.snap[21] s.snap[20]
  y := joinHalves s.snap[23] s.snap[22]
  th := joinHalves s.snap[25] s.snap[24]

/-- `CMP[c]` (10_state.md R27). -/
def State.cmp (s : State) (c : Channel) : U16 :=
  match c with
  | .rightWheel => s.cmp1
  | .leftWheel => s.cmp2
  | .gripForward => s.cmp3
  | .gripBackward => s.cmp4

end Sys2Proof.Machine
end

