-- ==== Sys2Proof/Machine/Ops.lean ====
section
/-! DEFINITION. The shared operations: the slot memory, the host's write, the compare registers and the duty mapper's
write, the counters, the outputs, and the entry to and the return from a tick. The block has no exceptions
(60_exceptions.md R200); a tick is what it has for an interrupt (R203), and it saves nothing (R206). -/

namespace Sys2Proof.Machine

open Sys2Proof.Config

/-- What a byte of the slot region that is not listed reads as: a byte of `SLOT_RESET` = +0.0 (10_state.md R23; log
entry 17). -/
def Memory.unlisted : Byte := 0#8

/-- The size of the slot region in bytes (20_memory.md R50): offsets 0x00 to 0x27. -/
def Memory.size : Nat := 40

/-- The canonical form from byte offset `lo` on: offsets strictly rising and inside the region, no entry equal to what
an unlisted byte reads as. -/
def Memory.wfFrom (lo : Nat) : Memory → Bool
  | [] => true
  | (a, b) :: m => decide (lo ≤ a) && decide (a < Memory.size) && decide (b ≠ Memory.unlisted) && Memory.wfFrom (a + 1) m

/-- The canonical form of the slot memory. -/
def Memory.wf (m : Memory) : Bool := Memory.wfFrom 0 m

/-- The byte at a byte offset. -/
def Memory.readByte : Memory → Nat → Byte
  | [], _ => Memory.unlisted
  | (k, b) :: m, a => if k = a then b else Memory.readByte m a

/-- A cell in front of a memory, unless it holds what an unlisted byte reads as. -/
def Memory.consCell (a : Nat) (b : Byte) (m : Memory) : Memory := if b = Memory.unlisted then m else (a, b) :: m

/-- Write the byte at a byte offset, keeping the canonical form. -/
def Memory.writeByte : Memory → Nat → Byte → Memory
  | [], a, b => Memory.consCell a b []
  | (k, v) :: m, a, b =>
    if a < k then Memory.consCell a b ((k, v) :: m)
    else if a = k then Memory.consCell a b m
    else (k, v) :: Memory.writeByte m a b

/-- `MemRead(i.h, 2)`: a half of a slot, little-endian (20_memory.md R52). -/
def Memory.readHalf (m : Memory) (i : Fin 10) (h : Half) : U16 :=
  Memory.readByte m (halfOffset i h + 1) ++ Memory.readByte m (halfOffset i h)

/-- `MemWrite(i.h, 2, v)` (20_memory.md R52). -/
def Memory.writeHalf (m : Memory) (i : Fin 10) (h : Half) (v : U16) : Memory :=
  Memory.writeByte (Memory.writeByte m (halfOffset i h) (v.extractLsb' 0 8)) (halfOffset i h + 1) (v.extractLsb' 8 8)

/-- `MemRead(i, 4)`, that is `SLOT[i]` (00_scope.md R10). -/
def Memory.readSlot (m : Memory) (i : Fin 10) : F32 := joinHalves (Memory.readHalf m i .hi) (Memory.readHalf m i .lo)

/-- `MemWrite(i, 4, v)`: both halves, whose order nothing sees. -/
def Memory.writeSlot (m : Memory) (i : Fin 10) (v : F32) : Memory :=
  Memory.writeHalf (Memory.writeHalf m i .lo (halfOf v .lo)) i .hi (halfOf v .hi)

/-- `SLOT[i]` (10_state.md R23). -/
def State.slot (s : State) (i : Fin 10) : F32 := Memory.readSlot s.slots i

/-- What the host's write to slot `i` changes beside the slot (40_host_commands.md R90): the cursor, and the counter of
ticks since the last write. -/
def noteSlotWritten (i : Fin 10) (s : State) : State :=
  { s with cursor := BitVec.ofNat 4 i.val, diagTicksSinceWrite := 0#32 }

/-- SET_SLOT in one piece: the whole slot, then cursor and counter (40_host_commands.md R90). With `TEAR_BITS` = 16 these are
its two half-write steps with nothing between them. -/
def writeWholeSlot (i : Fin 10) (v : F32) (s : State) : State :=
  noteSlotWritten i { s with slots := Memory.writeSlot s.slots i v }

/-- The first of the two half-write steps (20_memory.md R55): cursor and counter wait for the second (R90). -/
def writeFirstHalf (i : Fin 10) (v : F32) (h : Half) (s : State) : State :=
  { s with slots := Memory.writeHalf s.slots i h (halfOf v h), hostWrite := some ⟨i, h.other, halfOf v h.other⟩ }

/-- The second half-write step, if the host owes one (20_memory.md R55; 40_host_commands.md R90). -/
def finishHostWrite (s : State) : State :=
  match s.hostWrite with
  | none => s
  | some w => noteSlotWritten w.slot { s with slots := Memory.writeHalf s.slots w.slot w.half w.bits, hostWrite := none }

/-- `SET_SLOT(i, v)` (40_host_commands.md R90): with `TEAR_BITS` = 16 the schedule may split it (`hostSplit`; log entry 4); with
32 it is always one step (20_memory.md R55). -/
def setSlot (i : Fin 10) (v : F32) (s : State) : State :=
  match s.params.tearBits, s.hostSplit with
  | .b16, some h => writeFirstHalf i v h s
  | .b16, none => writeWholeSlot i v s
  | .b32, _ => writeWholeSlot i v s

/-- `emit(record)` (00_scope.md R10; 10_state.md R38). -/
def emit (r : ObsRecord) (s : State) : State := { s with trace := s.trace ++ [r] }

/-- `GET_STATUS(k)` (40_host_commands.md R101), when CURSOR names a slot: no state of the block changes. -/
def answerStatus (i : Fin 10) (s : State) : State := emit (.status (s.slot i)) { s with statusPort := some (s.slot i) }

/-- `CMP[c] <- n` (00_scope.md R10; 43_pwm.md R183). -/
def State.setCmp (s : State) (c : Channel) (n : U16) : State :=
  match c with
  | .rightWheel => { s with cmp1 := n }
  | .leftWheel => { s with cmp2 := n }
  | .gripForward => { s with cmp3 := n }
  | .gripBackward => { s with cmp4 := n }

/-- A duty percent the mapper counts as out of range: a NaN, below 0 or above 100 (43_pwm.md R180, R181). -/
def dutyOutOfRange (fp : FpSubnormal) (p : F32) : Bool := isNan p || flt fp p zero || fgt fp p hundred

/-- The compare count of a duty percent in range (43_pwm.md R180). -/
def compareOf (fp : FpSubnormal) (p : F32) : U16 := truncU16 (fdiv fp (fmul fp periodF32 p) hundred)

/-- `CMP[c] <- compare_of(p)` (43_pwm.md R180, R181): out of range, the count is a free value and DIAG_DUTY_OOR goes up
modulo 2^32. -/
def driveChannel (c : Channel) (p : F32) (s : State) : State :=
  if dutyOutOfRange s.params.fp p then
    { s.setCmp c (freeCompare s.draws) with draws := s.draws + 1, diagDutyOor := s.diagDutyOor + 1#32 }
  else s.setCmp c (compareOf s.params.fp p)

/-- DIAG_TICKS_SINCE_WRITE one up, saturating at 2^32 - 1 (10_state.md R37). -/
def countTick (s : State) : State :=
  { s with
    diagTicksSinceWrite :=
      if s.diagTicksSinceWrite = 0xFFFFFFFF#32 then s.diagTicksSinceWrite else s.diagTicksSinceWrite + 1#32 }

/-- The entry to a tick (42_dispatch.md R140; 60_exceptions.md R206): TICK_PHASE and SNAP_DONE change, nothing is saved. -/
def enterTick (s : State) : State := { s with tickPhase := .sampling, snapDone := 0#26 }

/-- The end of a tick (42_dispatch.md R140; 60_exceptions.md R205, R207): idle, or at once the pending tick. -/
def leaveTick (s : State) : State :=
  if s.tickPending then enterTick { s with tickPending := false } else { s with tickPhase := .idle }

/-- What a sampling step reads for bit `k`: a half of a slot, or of the pose port (20_memory.md R58; 10_state.md R33). An
undriven pose port reads as a free value. -/
def readSampled (k : Fin 26) (s : State) : U16 :=
  if h : k.val / 2 < 10 then Memory.readHalf s.slots ⟨k.val / 2, h⟩ (sampleHalf k)
  else
    match s.posePort with
    | some p => halfOf (p.component (k.val / 2 - 10)) (sampleHalf k)
    | none => freePose s.draws

/-- The number of free values drawn once the sampling step of bit `k` has read. -/
def drawsAfterSample (k : Fin 26) (s : State) : Nat :=
  if k.val / 2 < 10 then s.draws
  else if s.posePort.isSome then s.draws else s.draws + 1

/-- One half read into the snapshot, and its bit set (20_memory.md R58). -/
def sampleBit (k : Fin 26) (s : State) : State :=
  { s with
    snap := s.snap.set k.val (readSampled k s)
    snapDone := s.snapDone ||| BitVec.twoPow 26 k.val
    draws := drawsAfterSample k s }

/-- A sampling step (20_memory.md R54, R58): one half, or with `TEAR_BITS` = 32 both halves of the value. -/
def sampleStep (k : Fin 26) (s : State) : State :=
  match s.params.tearBits with
  | .b16 => sampleBit k s
  | .b32 => sampleBit (hiBit k) (sampleBit (loBit k) s)

/-- SNAP_DONE is all ones: the compute step is enabled (20_memory.md R58). -/
def State.allSampled (s : State) : Bool := decide (s.snapDone = BitVec.allOnes 26)

/-- The unset bits of SNAP_DONE: the sampling steps that are enabled (20_memory.md R58). -/
def State.unsampled (s : State) : List (Fin 26) := (List.finRange 26).filter fun k => !s.snapDone.getLsbD k.val

end Sys2Proof.Machine
end

