-- ==== Sys2Proof/Machine/Kinematics.lean ====
section
/-! DEFINITION. The inverse-kinematics transformer (41_kinematics.md): the matrix multiply, the goal-pose kinematics, and
IK_GOAL. -/

namespace Sys2Proof.Machine

open Sys2Proof.Config

/-- A pair of wheel angular velocities (00_scope.md section 6, WheelCommand). -/
structure Wheels where
  wl : F32
  wr : F32
deriving DecidableEq, Repr

/-- `IK_VW(v, w)` (41_kinematics.md R122): each product and each sum rounds once. -/
def ikVw (fp : FpSubnormal) (inv : InvMatrix) (v w : F32) : Wheels where
  wl := fadd fp (fmul fp inv.i00 v) (fmul fp inv.i01 w)
  wr := fadd fp (fmul fp inv.i10 v) (fmul fp inv.i11 w)

/-- `duty_of(x)` (00_scope.md R11). -/
def dutyOf (p : Params) (x : F32) : F32 := fadd p.fp (fmul p.fp p.f1 x) p.f2

/-- `clamp(x)` to plus or minus `VMAX`; a NaN passes through (41_kinematics.md R127). -/
def clampSpeed (fp : FpSubnormal) (x : F32) : F32 :=
  if fgt fp x vMax then vMax else if flt fp x (fneg vMax) then fneg vMax else x

/-- The straight-line distance with the source's defect kept: the x term is `dx * (xg * xs)` (41_kinematics.md R126). -/
def chordDistance (fp : FpSubnormal) (xs ys xg yg : F32) : F32 :=
  let dx := fsub fp xg xs
  let dy := fsub fp yg ys
  fsqrt fp (fadd fp (fmul fp dx (fmul fp xg xs)) (fmul fp dy dy))

/-- The straight branch is taken when the headings differ by less than `EPS` (41_kinematics.md R125). -/
def goalBranch (fp : FpSubnormal) (ths thg : F32) : Branch :=
  if flt fp (fabs (fsub fp thg ths)) eps then .straight else .arc

/-- The wheel velocities before the clamp (41_kinematics.md R124). -/
def goalWheels (g : GoalSeekFunctions) (fp : FpSubnormal) (start goal : Pose) : Wheels :=
  match goalBranch fp start.th goal.th with
  | .straight =>
    let speed := g.straightSpeed (chordDistance fp start.x start.y goal.x goal.y)
    ⟨speed, speed⟩
  | .arc =>
    let w := g.arc start.x start.y start.th goal.x goal.y goal.th
    ⟨w.1, w.2⟩

/-- `GS`: the wheel velocities of the goal-pose kinematics, clamped on both branches (41_kinematics.md R124, R127). -/
def goalSeek (g : GoalSeekFunctions) (fp : FpSubnormal) (start goal : Pose) : Wheels :=
  let w := goalWheels g fp start goal
  ⟨clampSpeed fp w.wl, clampSpeed fp w.wr⟩

/-- `GS_OUT(wl, wr)` (41_kinematics.md R129): the left wheel to `CMP[2]`, the right one to `CMP[1]`. -/
def goalOut (w : Wheels) (s : State) : State :=
  driveChannel .rightWheel (dutyOf s.params w.wr) (driveChannel .leftWheel (dutyOf s.params w.wl) s)

/-- IK_GOAL with the goal-seek functions as an argument (41_kinematics.md R130). -/
def ikGoalWith (g : GoalSeekFunctions) (start goal : Pose) (s : State) : State :=
  let w := goalSeek g s.params.fp start goal
  emit (.ik (goalBranch s.params.fp start.th goal.th) w.wl w.wr) (goalOut w s)

/-- IK_GOAL (41_kinematics.md R130): one atomic step, at any time. -/
def execIkGoal (xs ys ths xg yg thg : F32) (s : State) : Host.Outcome State Fault Refusal :=
  .next (ikGoalWith goalSeekFunctions ⟨xs, ys, ths⟩ ⟨xg, yg, thg⟩ s)

end Sys2Proof.Machine
end

