-- ==== Sys2Proof/Machine/Tick.lean ====
section
/-! DEFINITION. The control-dispatch state machine (42_dispatch.md): mode selection, the heading regulator, the paths of the
three modes, the gripper service, the compute step, and the three ticks. -/

namespace Sys2Proof.Machine

open Sys2Proof.Config

/-- `SELECT(te, gx)` (42_dispatch.md R141): the tracking-error test comes first. -/
def selectMode (fp : FpSubnormal) (te gx : F32) : Mode :=
  if fgt fp te zero then .trajectoryFollow else if fne fp gx zero then .goalSeek else .directSpeed

/-- One linear piece of the regulator, scaled by `K` (42_dispatch.md R145). -/
def regulatorPiece (p : Params) (slope intercept e : F32) : F32 :=
  fmul p.fp p.k (fadd p.fp (fmul p.fp slope e) intercept)

/-- `W_REG(e)`, the heading regulator: four branches tested in the source's order; a zero or a NaN gives 0.0
(42_dispatch.md R145). -/
def headingRegulator (p : Params) (e : F32) : F32 :=
  if fgt p.fp e heBrk then regulatorPiece p p.tfA1 p.tfB1 e
  else if fgt p.fp e zero then regulatorPiece p p.tfA2 p.tfB2 e
  else if flt p.fp e (fneg heBrk) then regulatorPiece p p.tfA3 p.tfB3 e
  else if flt p.fp e zero then regulatorPiece p p.tfA4 p.tfB4 e
  else zero

/-- What a mode hands on: the wheel values and the duty percents of the two drive wheels (42_dispatch.md R140). -/
structure Drive where
  wl : F32
  wr : F32
  dl : F32
  dr : F32
deriving DecidableEq, Repr

/-- Wheel velocities with the duties the gain and offset give them (41_kinematics.md R129). -/
def Wheels.toDrive (p : Params) (w : Wheels) : Drive := ⟨w.wl, w.wr, dutyOf p w.wl, dutyOf p w.wr⟩

/-- The rotation of TrajectoryFollow: none below `TE_THRESH`, else the regulator's (42_dispatch.md R144). -/
def trackingRotation (p : Params) (te e : F32) : F32 := if flt p.fp te teThresh then zero else headingRegulator p e

/-- `TF(te, e)` (42_dispatch.md R144, R146, R147): not clamped. -/
def trajectoryFollow (p : Params) (inv : InvMatrix) (te e : F32) : Drive :=
  (ikVw p.fp inv p.vTrack (trackingRotation p te e)).toDrive p

/-- `TURN_LEFT(l)`: the magnitude is a duty percent, handed on as it is (42_dispatch.md R150). -/
def turnLeft (l : F32) : Drive := ⟨l, hundred, l, hundred⟩

/-- `TURN_RIGHT(r)` (42_dispatch.md R151). -/
def turnRight (r : F32) : Drive := ⟨hundred, r, hundred, r⟩

/-- `MATRIX(v, w)` (42_dispatch.md R152): not clamped. -/
def matrixDrive (p : Params) (inv : InvMatrix) (v w : F32) : Drive := (ikVw p.fp inv v w).toDrive p

/-- `DS(v, w, l, r)` (42_dispatch.md R149): the left test before the right one. -/
def directSpeed (p : Params) (inv : InvMatrix) (v w l r : F32) : Drive :=
  if fgt p.fp l zero then turnLeft l else if fgt p.fp r zero then turnRight r else matrixDrive p inv v w

/-- `GSK(pose, gx, gy, gth)` (42_dispatch.md R155). -/
def goalSeekDrive (g : GoalSeekFunctions) (p : Params) (start goal : Pose) : Drive := (goalSeek g p.fp start goal).toDrive p

/-- The duties of the two gripper channels. -/
structure GripDuties where
  d3 : F32
  d4 : F32
deriving DecidableEq, Repr

/-- `GRIP(m)`: 0 forward, 1 backward, every other value stop (42_dispatch.md R160). -/
def gripDuties (p : Params) (m : F32) : GripDuties :=
  if feq p.fp m zero then ⟨p.gripDuty, zero⟩
  else if feq p.fp m one then ⟨zero, p.gripDuty⟩
  else ⟨zero, zero⟩

/-- The mode of the current snapshot (42_dispatch.md R140, R141). -/
def State.mode (s : State) : Mode := selectMode s.params.fp (s.snapSlot slotTe) (s.snapSlot slotGx)

/-- The drive values of the current snapshot (42_dispatch.md R140): each mode's own path, from SNAP and SNAP_POSE alone. -/
def State.drive (g : GoalSeekFunctions) (s : State) : Drive :=
  match s.mode with
  | .trajectoryFollow => trajectoryFollow s.params s.inv (s.snapSlot slotTe) (s.snapSlot slotHe)
  | .goalSeek => goalSeekDrive g s.params s.snapPose ⟨s.snapSlot slotGx, s.snapSlot slotGy, s.snapSlot slotGth⟩
  | .directSpeed =>
    directSpeed s.params s.inv (s.snapSlot slotV) (s.snapSlot slotW) (s.snapSlot slotL) (s.snapSlot slotR)

/-- The gripper duties of the current snapshot (42_dispatch.md R160, R161). -/
def State.grip (s : State) : GripDuties := gripDuties s.params (s.snapSlot slotGrip)

/-- The four channels of a compute step (42_dispatch.md R140). -/
def driveAll (d : Drive) (q : GripDuties) (s : State) : State :=
  driveChannel .gripBackward q.d4
    (driveChannel .gripForward q.d3 (driveChannel .leftWheel d.dl (driveChannel .rightWheel d.dr s)))

/-- The record of a compute step (10_state.md R38). -/
def tickRecord (m : Mode) (d : Drive) (q : GripDuties) : ObsRecord := .tick m d.wl d.wr d.dl d.dr q.d3 q.d4

/-- The compute step with the goal-seek functions as an argument (42_dispatch.md R140): one atomic step. -/
def computeWith (g : GoalSeekFunctions) (s : State) : State :=
  leaveTick (emit (tickRecord s.mode (s.drive g) s.grip) (countTick (driveAll (s.drive g) s.grip s)))

/-- The compute step (42_dispatch.md R140). -/
def compute (s : State) : State := computeWith goalSeekFunctions s

/-- TICK_1MS (42_dispatch.md R140): a tick begins, or one becomes pending (60_exceptions.md R205). -/
def execTick1ms (s : State) : Host.Outcome State Fault Refusal :=
  .next
    (match s.tickPhase with
    | .idle => enterTick s
    | .sampling => { s with tickPending := true })

/-- TICK_10MS (42_dispatch.md R165): "currently a no-op placeholder". -/
def execTick10ms (s : State) : Host.Outcome State Fault Refusal := .next s

/-- TICK_50MS (42_dispatch.md R166): "currently a no-op placeholder". -/
def execTick50ms (s : State) : Host.Outcome State Fault Refusal := .next s

end Sys2Proof.Machine
end

