-- ==== Sys2Proof/Machine/Agents.lean ====
section
/-! DEFINITION. What a step does around an event: how the moves of the schedule reach the machine, and the steps of the
tick agent and of the host that are no event (20_memory.md R55, R58, R59). -/

namespace Sys2Proof.Machine

open Sys2Proof.Config

/-- The status port holds nothing between events (10_state.md R34): a step begins with it empty. -/
def clearPort (s : State) : State := { s with statusPort := none }

/-- The state a move that is no event acts on: the move is taken off the schedule. -/
def takeMove (rest : List Move) (s : State) : State := { s with statusPort := none, input := rest }

/-- The state an arriving event runs in: its move is taken off the schedule, and the schedule's word on splitting a
SET_SLOT is noted. -/
def arrive (split : Option Half) (rest : List Move) (s : State) : State :=
  { s with statusPort := none, input := rest, hostSplit := split }

/-- The host performs its commands one at a time in order (40_host_commands.md R90): while a SET_SLOT of its own is half
written, its next command waits (log entry 20). -/
def hostMustFinish (i : Instr) (s : State) : Bool := decide (i.port = .host) && s.hostWrite.isSome

/-- The refusal of a list of bytes that is no event word. -/
def refusalOf (word : List Byte) : DecodeError → Refusal
  | .emptyWord => .malformedWord word
  | .wrongLength _ => .malformedWord word
  | .invalidCode code => .invalidCode code

/-- A sampling step the schedule picks (20_memory.md R58): it is enabled during a sampling phase while its bit is unset.
A pick that is not enabled changes nothing (log entry 3). -/
def trySample (k : Fin 26) (s : State) : State :=
  if decide (s.tickPhase = .sampling) && !s.snapDone.getLsbD k.val then sampleStep k s else s

/-- The compute step if it is enabled (42_dispatch.md R140), else nothing (log entry 3). -/
def tryCompute (s : State) : State :=
  if decide (s.tickPhase = .sampling) && s.allSampled then compute s else s

/-- The next sampling step when the schedule does not say: any enabled one, by a free value (20_memory.md R58; log entry 2). -/
def freePick (s : State) : Fin 26 := s.unsampled.getD (freeOrder s.draws % s.unsampled.length) 0

/-- The tick agent on its own, once the schedule is used up: an enabled sampling or compute step is taken
(70_reset_and_hazards.md R250); the idle block waits for events (R232). -/
def tickAgent (s : State) : State :=
  match s.tickPhase with
  | .idle => s
  | .sampling =>
    if s.allSampled then compute s else sampleStep (freePick s) { s with draws := s.draws + 1 }

/-- A move that is no event. -/
def agentMove (m : Move) (s : State) : State :=
  match m with
  | .event _ _ => s
  | .hostHalf => finishHostWrite s
  | .sample k => trySample k s
  | .compute => tryCompute s
  | .pose p => { s with posePort := p }

/-- Deliver the event word of `bytes` next: it goes to the front of the schedule. If it is a host command the host
first finishes a half-done write (log entry 1). -/
def deliver (word : List Byte) (s : State) : State :=
  let t := match decode word with
    | .ok i => if hostMustFinish i s then finishHostWrite s else s
    | .error _ => s
  { t with input := .event none word :: s.input }

end Sys2Proof.Machine
end

