-- ==== Sys2Proof/Machine/HostCommands.lean ====
section
/-! DEFINITION. The host command family (40_host_commands.md): SET_SLOT 0 to 9, GET_STATUS 0 to 3, and the unknown host
codes. -/

namespace Sys2Proof.Machine

/-- SET_SLOT 0 (SET_V), 40_host_commands.md R91. -/
def execSetV (v : F32) (s : State) : Host.Outcome State Fault Refusal := .next (setSlot slotV v s)

/-- SET_SLOT 1 (SET_W), R92. -/
def execSetW (w : F32) (s : State) : Host.Outcome State Fault Refusal := .next (setSlot slotW w s)

/-- SET_SLOT 2 (SET_L), R93. -/
def execSetL (l : F32) (s : State) : Host.Outcome State Fault Refusal := .next (setSlot slotL l s)

/-- SET_SLOT 3 (SET_R), R94. -/
def execSetR (r : F32) (s : State) : Host.Outcome State Fault Refusal := .next (setSlot slotR r s)

/-- SET_SLOT 4 (SET_GRIP), R95. -/
def execSetGrip (m : F32) (s : State) : Host.Outcome State Fault Refusal := .next (setSlot slotGrip m s)

/-- SET_SLOT 5 (SET_HE), R96. -/
def execSetHe (e : F32) (s : State) : Host.Outcome State Fault Refusal := .next (setSlot slotHe e s)

/-- SET_SLOT 6 (SET_TE), R97. -/
def execSetTe (t : F32) (s : State) : Host.Outcome State Fault Refusal := .next (setSlot slotTe t s)

/-- SET_SLOT 7 (SET_GX), R98. -/
def execSetGx (x : F32) (s : State) : Host.Outcome State Fault Refusal := .next (setSlot slotGx x s)

/-- SET_SLOT 8 (SET_GY), R99. -/
def execSetGy (y : F32) (s : State) : Host.Outcome State Fault Refusal := .next (setSlot slotGy y s)

/-- SET_SLOT 9 (SET_GTH), R100. -/
def execSetGth (th : F32) (s : State) : Host.Outcome State Fault Refusal := .next (setSlot slotGth th s)

/-- `SLOT[CURSOR]` to the status port (R101). A CURSOR of 10 to 15 names no slot and is refused (20_memory.md R51; log
entry 16); no step leaves one behind (10_state.md R26). -/
def getStatus (s : State) : Host.Outcome State Fault Refusal :=
  if h : s.cursor.toNat < 10 then .next (answerStatus ⟨s.cursor.toNat, h⟩ s)
  else .refused (.outsideSlotRegion s.cursor.toNat)

/-- GET_STATUS 0 (R102). -/
def execGetStatus0 (s : State) : Host.Outcome State Fault Refusal := getStatus s

/-- GET_STATUS 1 (R103): as GET_STATUS 0. -/
def execGetStatus1 (s : State) : Host.Outcome State Fault Refusal := getStatus s

/-- GET_STATUS 2 (R104): as GET_STATUS 0. -/
def execGetStatus2 (s : State) : Host.Outcome State Fault Refusal := getStatus s

/-- GET_STATUS 3 (R105): as GET_STATUS 0. -/
def execGetStatus3 (s : State) : Host.Outcome State Fault Refusal := getStatus s

/-- Unknown host codes 0x0A and 0x0B (R106): the operand is read and discarded, no effect. -/
def execUnknown0A (_code : Byte) (_a : F32) (s : State) : Host.Outcome State Fault Refusal := .next s

/-- Unknown host codes 0x0C to 0x0F (R106): the operand is read and discarded, no effect. -/
def execUnknown0C (_code : Byte) (_a : F32) (s : State) : Host.Outcome State Fault Refusal := .next s

/-- Unknown host codes 0x14 to 0x17 (R106): no effect. -/
def execUnknown14 (_code : Byte) (s : State) : Host.Outcome State Fault Refusal := .next s

/-- Unknown host codes 0x18 to 0x1F (R106): no effect. -/
def execUnknown18 (_code : Byte) (s : State) : Host.Outcome State Fault Refusal := .next s

end Sys2Proof.Machine
end

