-- ==== Sys2Proof/Machine/Pwm.lean ====
section
/-! DEFINITION. The direct calls of the duty mapper: SET_DUTY 1 to 4 (43_pwm.md R185 to R189). -/

namespace Sys2Proof.Machine

/-- `SET_DUTY(c, p)` (43_pwm.md R185): one atomic step, at any time. -/
def setDuty (c : Channel) (p : F32) (s : State) : State := emit (.duty c p) (driveChannel c p s)

/-- SET_DUTY 1 (R186), the right drive wheel. -/
def execSetDuty1 (p : F32) (s : State) : Host.Outcome State Fault Refusal := .next (setDuty .rightWheel p s)

/-- SET_DUTY 2 (R187), the left drive wheel. -/
def execSetDuty2 (p : F32) (s : State) : Host.Outcome State Fault Refusal := .next (setDuty .leftWheel p s)

/-- SET_DUTY 3 (R188), gripper forward. -/
def execSetDuty3 (p : F32) (s : State) : Host.Outcome State Fault Refusal := .next (setDuty .gripForward p s)

/-- SET_DUTY 4 (R189), gripper backward. -/
def execSetDuty4 (p : F32) (s : State) : Host.Outcome State Fault Refusal := .next (setDuty .gripBackward p s)

end Sys2Proof.Machine
end

