-- ==== Sys2Proof/Machine/Reset.lean ====
section
/-! DEFINITION. RESET (70_reset_and_hazards.md R230). -/

namespace Sys2Proof.Machine

/-- What RESET leaves (70_reset_and_hazards.md R230, R231): the whole channel on both sides at its reset values; a tick in
progress, a pending tick and a half-written slot are dropped (log entry 5). SNAP takes the value that log entry 12 names.
The constants stay as they are. The trace already emitted, the environment's inputs and the count of draws
are no state of the block (log entry 19). -/
def resetBlock (s : State) : State :=
  { s with
    slots := State.reset.slots
    cursor := State.reset.cursor
    cmp1 := State.reset.cmp1
    cmp2 := State.reset.cmp2
    cmp3 := State.reset.cmp3
    cmp4 := State.reset.cmp4
    snap := State.reset.snap
    snapDone := State.reset.snapDone
    tickPhase := State.reset.tickPhase
    tickPending := State.reset.tickPending
    diagDutyOor := State.reset.diagDutyOor
    diagTicksSinceWrite := State.reset.diagTicksSinceWrite
    hostWrite := State.reset.hostWrite }

/-- RESET (70_reset_and_hazards.md R230). -/
def execReset (s : State) : Host.Outcome State Fault Refusal := .next (resetBlock s)

end Sys2Proof.Machine
end

