-- ==== Sys2Proof/Machine/Dispatch.lean ====
section
/-! DEFINITION. The meaning of every event: one arm for each constructor of Instr. -/

namespace Sys2Proof.Machine

def exec (i : Instr) (s : State) : Host.Outcome State Fault Refusal :=
  match i with
  | .setV v => Sys2Proof.Machine.execSetV v s
  | .setW w => Sys2Proof.Machine.execSetW w s
  | .setL l => Sys2Proof.Machine.execSetL l s
  | .setR r => Sys2Proof.Machine.execSetR r s
  | .setGrip m => Sys2Proof.Machine.execSetGrip m s
  | .setHe e => Sys2Proof.Machine.execSetHe e s
  | .setTe t => Sys2Proof.Machine.execSetTe t s
  | .setGx x => Sys2Proof.Machine.execSetGx x s
  | .setGy y => Sys2Proof.Machine.execSetGy y s
  | .setGth th => Sys2Proof.Machine.execSetGth th s
  | .getStatus0 => Sys2Proof.Machine.execGetStatus0 s
  | .getStatus1 => Sys2Proof.Machine.execGetStatus1 s
  | .getStatus2 => Sys2Proof.Machine.execGetStatus2 s
  | .getStatus3 => Sys2Proof.Machine.execGetStatus3 s
  | .setDuty1 p => Sys2Proof.Machine.execSetDuty1 p s
  | .setDuty2 p => Sys2Proof.Machine.execSetDuty2 p s
  | .setDuty3 p => Sys2Proof.Machine.execSetDuty3 p s
  | .setDuty4 p => Sys2Proof.Machine.execSetDuty4 p s
  | .ikGoal xs ys ths xg yg thg => Sys2Proof.Machine.execIkGoal xs ys ths xg yg thg s
  | .tick1ms => Sys2Proof.Machine.execTick1ms s
  | .tick10ms => Sys2Proof.Machine.execTick10ms s
  | .tick50ms => Sys2Proof.Machine.execTick50ms s
  | .reset => Sys2Proof.Machine.execReset s
  | .unknown0A code a => Sys2Proof.Machine.execUnknown0A code a s
  | .unknown0C code a => Sys2Proof.Machine.execUnknown0C code a s
  | .unknown14 code => Sys2Proof.Machine.execUnknown14 code s
  | .unknown18 code => Sys2Proof.Machine.execUnknown18 code s

end Sys2Proof.Machine
end

