-- ==== Sys2Proof/Machine/Step.lean ====
section
/-! DEFINITION. One step of the machine: the next move of the schedule, or the tick agent on its own when the schedule is
used up (20_memory.md R59; log entries 1, 2). -/

namespace Sys2Proof.Machine

/-- One step. An event word is decoded and its event runs as one step; a host command waits while the host's own write is
half done; a word that spells no event is refused (30_encoding.md R76). -/
def step (s : State) : Host.Outcome State Fault Refusal :=
  match s.input with
  | [] => .next (tickAgent (clearPort s))
  | .event split word :: rest =>
    match decode word with
    | .error e => .refused (refusalOf word e)
    | .ok i => if hostMustFinish i s then .next (finishHostWrite (clearPort s)) else exec i (arrive split rest s)
  | m :: rest => .next (agentMove m (takeMove rest s))

/-- The event word of `nbits` bits `w` arrives next (log entry 1). -/
def State.withFetchWord (s : State) (nbits w : Nat) : State := deliver (bytesOfNumber (nbits / 8) w) s

end Sys2Proof.Machine
end

