-- ==== Sys2Proof/Safety.lean ====
section
/-! DEFINITION. What the claims speak of: the invariant of the machine, which states are the same but for what no tick has
sampled yet, the families of events, the number a binary32 pattern stands for, and correct rounding. -/

namespace Sys2Proof.Machine

open Sys2Proof.Config

/-- `n` steps one after another, ending at the first refusal: what the host's `Core.run` computes. -/
def stepN : Nat → State → Host.Outcome State Fault Refusal
  | 0, s => .next s
  | n + 1, s =>
    match step s with
    | .next t => stepN n t
    | .fault r => .fault r
    | .refused r => .refused r

/-- The invariant of the machine. The slot memory has its canonical form and lies inside the region (20_memory.md R50,
R51); CURSOR names a slot (10_state.md R26: "values 10 to 15 are never written"); a TICK_1MS is pending only while a tick
is in progress (10_state.md R32); the host owes a half-write only with `TEAR_BITS` = 16 (20_memory.md R55). -/
structure State.Inv (s : State) : Prop where
  slots_wf : Memory.wf s.slots = true
  cursor_lt : s.cursor.toNat < 10
  pending_only_in_tick : s.tickPhase = .idle → s.tickPending = false
  half_only_if_torn : s.hostWrite.isSome = true → s.params.tearBits = .b16

/-- Bit `k` of the snapshot has been sampled in the tick in progress (10_state.md R30). -/
def State.hasSampled (s : State) (k : Fin 26) : Prop := s.tickPhase = .sampling ∧ s.snapDone.getLsbD k.val = true

/-- Two states that agree on everything but the halves of the snapshot that the tick in progress has not sampled yet
(10_state.md R30: such a half has no value and is never read). -/
def SameButUnsampled (s t : State) : Prop :=
  t = { s with snap := t.snap } ∧ ∀ k : Fin 26, s.hasSampled k → t.snap[k.val] = s.snap[k.val]

/-- The SET_SLOT event of slot `i` (30_encoding.md R74). -/
def slotEvent (i : Fin 10) (v : F32) : Instr :=
  match i with
  | 0 => .setV v
  | 1 => .setW v
  | 2 => .setL v
  | 3 => .setR v
  | 4 => .setGrip v
  | 5 => .setHe v
  | 6 => .setTe v
  | 7 => .setGx v
  | 8 => .setGy v
  | 9 => .setGth v

/-- The GET_STATUS event with selector `k` (30_encoding.md R74). -/
def statusEvent (k : Fin 4) : Instr :=
  match k with
  | 0 => .getStatus0
  | 1 => .getStatus1
  | 2 => .getStatus2
  | 3 => .getStatus3

/-- The SET_DUTY event of a channel (30_encoding.md R74). -/
def dutyEvent (c : Channel) (p : F32) : Instr :=
  match c with
  | .rightWheel => .setDuty1 p
  | .leftWheel => .setDuty2 p
  | .gripForward => .setDuty3 p
  | .gripBackward => .setDuty4 p

/-- The SET_SLOT now performed is not split between its two half-writes: the schedule leaves nothing between them, or
`TEAR_BITS` is 32 (20_memory.md R55). -/
def State.writesWhole (s : State) : Prop := s.hostSplit = none ∨ s.params.tearBits = .b32

/-- The moves of one SET_SLOT with nothing between them: its event, and the half it then owes if the schedule splits it
(20_memory.md R55). With `TEAR_BITS` = 32 it owes none, and the second move changes nothing. -/
def slotMoves (split : Option Half) (i : Fin 10) (v : F32) : List Move :=
  match split with
  | none => [.event none (encode (slotEvent i v))]
  | some h => [.event (some h) (encode (slotEvent i v)), .hostHalf]

/-- The next step is the compute step of a tick: it is enabled (42_dispatch.md R140), and the schedule picks it or is used
up. -/
def State.computesNext (s : State) : Prop :=
  s.tickPhase = .sampling ∧ s.snapDone = BitVec.allOnes 26 ∧ (s.input = [] ∨ ∃ rest, s.input = .compute :: rest)

/-- The next step completes a write of the host (40_host_commands.md R90): it is the half-write the host owes, scheduled or
because the host's next command waits for it, or a SET_SLOT in one piece. -/
def State.completesWriteNext (s : State) : Prop :=
  (s.hostWrite.isSome = true ∧ ∃ rest, s.input = .hostHalf :: rest) ∨
  ∃ split word rest i, s.input = .event split word :: rest ∧ decode word = .ok i ∧ i.port = .host ∧
    (s.hostWrite.isSome = true ∨ (∃ j v, i = slotEvent j v) ∧ (split = none ∨ s.params.tearBits = .b32))

/-- The next step is a RESET (70_reset_and_hazards.md R230). -/
def State.resetsNext (s : State) : Prop :=
  ∃ split word rest, s.input = .event split word :: rest ∧ decode word = .ok .reset

/-- How much a duty percent adds to DIAG_DUTY_OOR (43_pwm.md R181). -/
def dutyCount (fp : FpSubnormal) (p : F32) : U32 := if dutyOutOfRange fp p then 1#32 else 0#32

/-- A compare register after the mapper was given `p`: the count of a percent in range, and nothing said of one that is
not (43_pwm.md R180, R181). -/
def holdsCountOf (fp : FpSubnormal) (p : F32) (n : U16) : Prop := dutyOutOfRange fp p = false → n = compareOf fp p

/-- A finite pattern: neither an infinity nor a NaN. -/
def isFinite (x : F32) : Bool := decide (magnitudeOf x < 0x7F800000)

/-- A quiet NaN (00_scope.md R8). -/
def isQuietNan (x : F32) : Bool := isNan x && x.getLsbD 22

/-- The number a finite pattern stands for (IEEE 754 binary32, 00_scope.md R7). -/
def valueOf (x : F32) : ℚ :=
  (if signOf x then -1 else 1) *
    (if exponentOf x = 0 then (fractionOf x : ℚ) * (2 : ℚ) ^ (-149 : ℤ)
      else ((2 ^ 23 + fractionOf x : ℕ) : ℚ) * (2 : ℚ) ^ ((exponentOf x : ℤ) - 150))

/-- Where round to nearest overflows: halfway between the largest finite number and 2^128. -/
def overflowBound : ℚ := (2 : ℚ) ^ (128 : ℕ) - (2 : ℚ) ^ (103 : ℕ)

/-- `x` is `v` rounded once to nearest, ties to even (00_scope.md R8): no finite pattern is nearer, of two equally near the
even one is taken, and an infinity of the right sign stands exactly for what lies beyond the bound. -/
structure CorrectlyRounded (x : F32) (v : ℚ) : Prop where
  not_nan : isNan x = false
  finite_iff : isFinite x = true ↔ |v| < overflowBound
  nearest : isFinite x = true → ∀ y : F32, isFinite y = true → |valueOf x - v| ≤ |valueOf y - v|
  tie_even : isFinite x = true → ∀ y : F32, isFinite y = true → valueOf y ≠ valueOf x →
    |valueOf y - v| = |valueOf x - v| → x.getLsbD 0 = false
  inf_sign : isFinite x = false → (signOf x = true ↔ v < 0)

end Sys2Proof.Machine
end

