-- ==== Sys2Proof/Certificates/Slice0/Obligations.lean ====
section
/-! DEFINITION. The statements for the provers. Each docstring names the rule of spec/ it formalises. A statement about
a free value (`freeCompare`, `freePose`, `freeNan`, `freeOrder`, the OPEN constants and functions) holds whatever it is. -/

open Sys2Proof Sys2Proof.Machine Sys2Proof.Config

/-! ### Encoding -/

/-- The decoder gives back every well-formed event that the encoder wrote (30_encoding.md R71, R74, R75). -/
def Obligations.DecodeOfEncodeIsTheEvent : Prop :=
  ∀ i : Instr, i.wellFormed = true → decode (encode i) = .ok i

/-- Each event word has one meaning: what the decoder accepts is the encoder's word of a well-formed event, so no bit of a
word is dropped (30_encoding.md R71, R73). -/
def Obligations.EncodeOfDecodeIsTheWord : Prop :=
  ∀ (word : List Byte) (i : Instr), decode word = .ok i → i.wellFormed = true ∧ encode i = word

/-- Words written out from 30_encoding.md R71 and R74 decode to their events, as bytes and, each of them, in the numbering of
spec/opcode_table.json; an unknown host code is an event (R75), an invalid code is none (R76). That a word is listed code
byte first, and that a word of the wrong length is no event, is the model's choice (log entry 15). -/
def Obligations.WrittenOutWordsDecode : Prop :=
  (decode [0x02#8, 0x41#8, 0x5E#8, 0x66#8, 0x66#8] = .ok (.setL 0x415E6666#32) ∧
    decodeTableWord 40 0x02415E6666 = some (.setL 0x415E6666#32)) ∧
  (decode [0x12#8] = .ok .getStatus2 ∧ decodeTableWord 8 0x12 = some .getStatus2) ∧
  (decode [0x20#8, 0x42#8, 0x48#8, 0x00#8, 0x00#8] = .ok (.setDuty1 0x42480000#32) ∧
    decodeTableWord 40 0x2042480000 = some (.setDuty1 0x42480000#32)) ∧
  (decode [0x30#8, 0x00#8, 0x00#8, 0x00#8, 0x00#8, 0x00#8, 0x00#8, 0x00#8, 0x00#8, 0x3E#8, 0x99#8, 0x99#8, 0x9A#8,
      0x3F#8, 0x80#8, 0x00#8, 0x00#8, 0x40#8, 0x00#8, 0x00#8, 0x00#8, 0x3E#8, 0x9A#8, 0x5E#8, 0x35#8] =
      .ok (.ikGoal 0x00000000#32 0x00000000#32 0x3E99999A#32 0x3F800000#32 0x40000000#32 0x3E9A5E35#32) ∧
    decodeTableWord 200 0x3000000000000000003E99999A3F800000400000003E9A5E35 =
      some (.ikGoal 0x00000000#32 0x00000000#32 0x3E99999A#32 0x3F800000#32 0x40000000#32 0x3E9A5E35#32)) ∧
  (decode [0x40#8] = .ok .tick1ms ∧ decodeTableWord 8 0x40 = some .tick1ms) ∧
  (decode [0x7F#8] = .ok .reset ∧ decodeTableWord 8 0x7F = some .reset) ∧
  (decode [0x0A#8, 0x3F#8, 0x80#8, 0x00#8, 0x00#8] = .ok (.unknown0A 0x0A#8 0x3F800000#32) ∧
    decodeTableWord 40 0x0A3F800000 = some (.unknown0A 0x0A#8 0x3F800000#32)) ∧
  (decode [0x24#8] = .error (.invalidCode 0x24#8) ∧ decodeTableWord 8 0x24 = none) ∧
  (decode [0x02#8, 0x41#8, 0x5E#8, 0x66#8] = .error (.wrongLength 0x02#8) ∧ decodeTableWord 32 0x02415E66 = none)

/-- A code that spells no event is `INVALID`: the word is refused, and the refusal is what the whole run ends in
(30_encoding.md R76). -/
def Obligations.InvalidCodesAreRefused : Prop :=
  ∀ (s : State) (split : Option Half) (code : Byte) (operands : List Byte) (rest : List Move),
    (0x24 ≤ code.toNat ∧ code.toNat ≤ 0x2F) ∨ (0x31 ≤ code.toNat ∧ code.toNat ≤ 0x3F) ∨
      (0x43 ≤ code.toNat ∧ code.toNat ≤ 0x7E) ∨ 0x80 ≤ code.toNat →
    s.input = .event split (code :: operands) :: rest →
    decode (code :: operands) = .error (.invalidCode code) ∧
    step s = .refused (.invalidCode code) ∧
    ∀ k, stepN (k + 1) s = .refused (.invalidCode code)

/-- The length of an accepted word follows from the group `code[7:4]` alone (30_encoding.md R71, R72). -/
def Obligations.WordLengthFollowsFromTheGroup : Prop :=
  ∀ (code : Byte) (operands : List Byte) (i : Instr), decode (code :: operands) = .ok i →
    (code.toNat / 16 = 0 ∨ code.toNat / 16 = 2 → operands.length = 4) ∧
    (code.toNat / 16 = 3 → operands.length = 24) ∧
    (code.toNat / 16 ≠ 0 ∧ code.toNat / 16 ≠ 2 ∧ code.toNat / 16 ≠ 3 → operands = [])

/-! ### The step -/

/-- A step runs the event that the next word of the schedule decodes to, with the move taken off, the status port empty
and the schedule's word on splitting noted; a host command only while the host owes no half-write. That a list of moves says
which word is next is the model's choice (log entry 1). -/
def Obligations.AStepRunsTheDecodedEvent : Prop :=
  ∀ (s : State) (split : Option Half) (word : List Byte) (rest : List Move) (i : Instr),
    s.input = .event split word :: rest → decode word = .ok i → (i.port = .host → s.hostWrite = none) →
    step s = exec i { s with statusPort := none, input := rest, hostSplit := split }

/-- While the host owes a half-write its next command waits: the step is the half-write, and the command stays the next
move (40_host_commands.md R90: it performs its commands one at a time in order; that the step is then the half-write is the
model's choice, log entry 20). -/
def Obligations.AHostCommandWaitsForTheHalfWrite : Prop :=
  ∀ (s : State) (split : Option Half) (word : List Byte) (rest : List Move) (i : Instr) (w : HostWrite),
    s.input = .event split word :: rest → decode word = .ok i → i.port = .host → s.hostWrite = some w →
    ∃ t, step s = .next t ∧ t.input = s.input ∧ t.hostWrite = none ∧
      t.slots = Memory.writeHalf s.slots w.slot w.half w.bits ∧ t.cursor = BitVec.ofNat 4 w.slot.val ∧
      t.diagTicksSinceWrite = 0#32 ∧ t.cmp1 = s.cmp1 ∧ t.cmp2 = s.cmp2 ∧ t.cmp3 = s.cmp3 ∧ t.cmp4 = s.cmp4

/-- No event faults, traps or stops the block (60_exceptions.md R200): with a CURSOR that names a slot, which every run keeps,
every event ends in a next state; and a fault is never the outcome, of an event or of a step. -/
def Obligations.NoEventStopsTheBlock : Prop :=
  (∀ (i : Instr) (s : State), s.cursor.toNat < 10 → ∃ t, exec i s = .next t) ∧
  (∀ (i : Instr) (s : State) (r : Fault), exec i s ≠ .fault r) ∧
  (∀ (s : State) (r : Fault), step s ≠ .fault r)

/-- In a state that meets the invariant only a word that spells no event is refused (30_encoding.md R76; 60_exceptions.md
R200). That a word of the wrong length is one is the model's choice (log entry 15). -/
def Obligations.OnlyWordsThatSpellNoEventAreRefused : Prop :=
  ∀ (s : State) (r : Refusal), s.Inv → step s = .refused r →
    ∃ (split : Option Half) (word : List Byte) (rest : List Move) (e : DecodeError),
      s.input = .event split word :: rest ∧ decode word = .error e ∧ r = refusalOf word e

/-! ### SET_SLOT, GET_STATUS and the unknown host codes -/

/-- SET_SLOT 0 to 9 (`setV`, `setW`, `setL`, `setR`, `setGrip`, `setHe`, `setTe`, `setGx`, `setGy`, `setGth`), not split between
its half-writes: the slot holds the operand's bits, CURSOR its index, DIAG_TICKS_SINCE_WRITE 0, and nothing else
changes, no byte outside the slot's four (40_host_commands.md R90 to R100). -/
def Obligations.SetSlotWritesItsSlot : Prop :=
  ∀ (i : Fin 10) (v : F32) (s : State), Memory.wf s.slots = true → s.writesWhole →
    ∃ t, exec (slotEvent i v) s = .next t ∧ t.slot i = v ∧ (∀ j, j ≠ i → t.slot j = s.slot j) ∧
      t.cursor = BitVec.ofNat 4 i.val ∧ t.diagTicksSinceWrite = 0#32 ∧
      (∀ a, a < halfOffset i .lo ∨ halfOffset i .lo + 4 ≤ a → Memory.readByte t.slots a = Memory.readByte s.slots a) ∧
      t = { s with slots := t.slots, cursor := t.cursor, diagTicksSinceWrite := t.diagTicksSinceWrite }

/-- SET_SLOT 0 to 9 that the schedule splits: the first of its half-writes stores its half and no other byte; CURSOR and
DIAG_TICKS_SINCE_WRITE wait for the second, which the host owes (20_memory.md R55; 40_host_commands.md R90). -/
def Obligations.ASplitSetSlotWritesOneHalf : Prop :=
  ∀ (i : Fin 10) (v : F32) (h : Half) (s : State), Memory.wf s.slots = true → s.params.tearBits = .b16 →
    s.hostSplit = some h →
    ∃ t, exec (slotEvent i v) s = .next t ∧ Memory.readHalf t.slots i h = halfOf v h ∧
      (∀ a, a < halfOffset i h ∨ halfOffset i h + 2 ≤ a → Memory.readByte t.slots a = Memory.readByte s.slots a) ∧
      t.hostWrite = some ⟨i, h.other, halfOf v h.other⟩ ∧ t = { s with slots := t.slots, hostWrite := t.hostWrite }

/-- The second half-write stores its half and no other byte, sets CURSOR and clears DIAG_TICKS_SINCE_WRITE
(20_memory.md R55; 40_host_commands.md R90). -/
def Obligations.TheSecondHalfCompletesTheWrite : Prop :=
  ∀ (s : State) (w : HostWrite) (rest : List Move), Memory.wf s.slots = true → s.hostWrite = some w →
    s.input = .hostHalf :: rest →
    ∃ t, step s = .next t ∧ Memory.readHalf t.slots w.slot w.half = w.bits ∧
      (∀ a, a < halfOffset w.slot w.half ∨ halfOffset w.slot w.half + 2 ≤ a →
        Memory.readByte t.slots a = Memory.readByte s.slots a) ∧
      t.cursor = BitVec.ofNat 4 w.slot.val ∧ t.diagTicksSinceWrite = 0#32 ∧
      t = { s with slots := t.slots, cursor := t.cursor, diagTicksSinceWrite := t.diagTicksSinceWrite, hostWrite := none
                   statusPort := none, input := rest }

/-- The two half-writes of a SET_SLOT, in either order with nothing between them, leave the state that the write in one
piece leaves, to the byte (20_memory.md R55). -/
def Obligations.ASplitWriteEndsAsAWholeOne : Prop :=
  ∀ (i : Fin 10) (v : F32) (h : Half) (s : State) (rest : List Move), Memory.wf s.slots = true →
    s.params.tearBits = .b16 → s.hostWrite = none →
    ∃ t u,
      stepN 2
        { s with input := .event (some h) (encode (slotEvent i v)) :: .hostHalf :: rest } = .next t ∧
      stepN 1 { s with input := .event none (encode (slotEvent i v)) :: rest } = .next u ∧
      t = { u with hostSplit := some h }

/-- Performing SET_SLOT(i, v) twice in a row leaves SLOT[i] = v after the second write, the same as after the first, each of
the two writes in one piece or split with either half first (40_host_commands.md R107). -/
def Obligations.RepeatingASetSlotChangesNothing : Prop :=
  ∀ (i : Fin 10) (v : F32) (s : State), Memory.wf s.slots = true →
    (s.writesWhole → ∃ t, exec (slotEvent i v) s = .next t ∧ exec (slotEvent i v) t = .next t ∧ t.slot i = v) ∧
    (∀ (first second : Option Half) (rest : List Move), s.hostWrite = none →
      ∃ t u,
        stepN (slotMoves first i v).length
          { s with input := slotMoves first i v ++ (slotMoves second i v ++ rest) } = .next t ∧
        stepN (slotMoves second i v).length t = .next u ∧
        t.slot i = v ∧ u.slot i = v ∧ u.slots = t.slots ∧ u.input = rest)

/-- GET_STATUS 0 to 3 (`getStatus0`, `getStatus1`, `getStatus2`, `getStatus3`) put SLOT[CURSOR] on the status port and into the
trace, all four alike, and change nothing else (40_host_commands.md R101 to R105). -/
def Obligations.GetStatusAnswersTheCursorsSlot : Prop :=
  ∀ (k : Fin 4) (s : State) (h : s.cursor.toNat < 10),
    exec (statusEvent k) s =
      .next { s with statusPort := some (s.slot ⟨s.cursor.toNat, h⟩)
                     trace := s.trace ++ [.status (s.slot ⟨s.cursor.toNat, h⟩)] }

/-- With a CURSOR of 10 to 15, which names no slot, GET_STATUS is an access outside the slot region and is refused
(20_memory.md R51; the model's choice of where to refuse is log entry 16). -/
def Obligations.GetStatusOutsideTheSlotsIsRefused : Prop :=
  ∀ (k : Fin 4) (s : State), 10 ≤ s.cursor.toNat →
    exec (statusEvent k) s = .refused (.outsideSlotRegion s.cursor.toNat)

/-- The host reads back its own last write, never a torn value: after a SET_SLOT in one piece, after one split between its
halves, and also when the GET_STATUS arrives while the host still owes the second half, for which it waits
(40_host_commands.md R90, R101; that the step is then the half-write is the model's choice, log entry 20). -/
def Obligations.GetStatusReadsBackTheLastWrite : Prop :=
  ∀ (i : Fin 10) (v : F32) (k : Fin 4) (s : State), Memory.wf s.slots = true →
    (s.writesWhole →
      ∃ t u, exec (slotEvent i v) s = .next t ∧ exec (statusEvent k) t = .next u ∧ u.statusPort = some v ∧
        u.slots = t.slots ∧ u.cursor = t.cursor) ∧
    (∀ (split asked : Option Half) (rest : List Move), s.hostWrite = none →
      ∃ t u,
        stepN (slotMoves split i v).length
          { s with input := slotMoves split i v ++ (.event asked (encode (statusEvent k)) :: rest) } = .next t ∧
        step t = .next u ∧ u.statusPort = some v ∧ u.slots = t.slots ∧ u.cursor = t.cursor ∧ u.input = rest) ∧
    (∀ (h : Half) (asked : Option Half) (rest : List Move), s.hostWrite = none → s.params.tearBits = .b16 →
      ∃ t,
        stepN 3
          { s with input := .event (some h) (encode (slotEvent i v)) :: .event asked (encode (statusEvent k)) ::
                     rest } = .next t ∧
        t.statusPort = some v ∧ t.slot i = v ∧ t.input = rest)

/-- Unknown host codes (`unknown0A`, `unknown0C`, `unknown14`, `unknown18`): 0x0A to 0x0F with their operand and 0x14 to 0x1F alone
are events that change nothing at all (40_host_commands.md R106). -/
def Obligations.UnknownHostCodesChangeNothing : Prop :=
  (∀ (code : Byte) (a : F32) (s : State),
    exec (.unknown0A code a) s = .next s ∧ exec (.unknown0C code a) s = .next s ∧
    exec (.unknown14 code) s = .next s ∧ exec (.unknown18 code) s = .next s) ∧
  (∀ code b3 b2 b1 b0 : Byte, 0x0A ≤ code.toNat → code.toNat ≤ 0x0F →
    ∃ i, decode [code, b3, b2, b1, b0] = .ok i ∧ ∀ s, exec i s = .next s) ∧
  (∀ code : Byte, 0x14 ≤ code.toNat → code.toNat ≤ 0x1F → ∃ i, decode [code] = .ok i ∧ ∀ s, exec i s = .next s)

/-! ### The duty mapper -/

/-- SET_DUTY 1 to 4 (`setDuty1`, `setDuty2`, `setDuty3`, `setDuty4`) with a percent in range: the channel holds its count, a record
is emitted, and nothing else changes, no other channel and no byte of the slots (43_pwm.md R183, R185 to R189). -/
def Obligations.SetDutyInRangeWritesItsChannel : Prop :=
  ∀ (c : Channel) (p : F32) (s : State), dutyOutOfRange s.params.fp p = false →
    ∃ t, exec (dutyEvent c p) s = .next t ∧
      t.cmp c = truncU16 (fdiv s.params.fp (fmul s.params.fp periodF32 p) hundred) ∧
      (∀ d, d ≠ c → t.cmp d = s.cmp d) ∧ t.trace = s.trace ++ [.duty c p] ∧
      (∀ a, Memory.readByte t.slots a = Memory.readByte s.slots a) ∧
      t = { s with cmp1 := t.cmp1, cmp2 := t.cmp2, cmp3 := t.cmp3, cmp4 := t.cmp4, trace := t.trace }

/-- SET_DUTY 1 to 4 with a percent that is a NaN, below 0 or above 100: DIAG_DUTY_OOR goes up by one modulo 2^32, the channel
holds a free value, and nothing else changes (43_pwm.md R181; 10_state.md R36). -/
def Obligations.SetDutyOutOfRangeIsCounted : Prop :=
  ∀ (c : Channel) (p : F32) (s : State),
    isNan p = true ∨ flt s.params.fp p zero = true ∨ fgt s.params.fp p hundred = true →
    ∃ t, exec (dutyEvent c p) s = .next t ∧ t.diagDutyOor = s.diagDutyOor + 1#32 ∧
      t.cmp c = freeCompare s.draws ∧ t.draws = s.draws + 1 ∧ (∀ d, d ≠ c → t.cmp d = s.cmp d) ∧
      t.trace = s.trace ++ [.duty c p] ∧
      t = { s with cmp1 := t.cmp1, cmp2 := t.cmp2, cmp3 := t.cmp3, cmp4 := t.cmp4, trace := t.trace, draws := t.draws
                   diagDutyOor := t.diagDutyOor }

/-- A percent in range gives a count of at most PERIOD (43_pwm.md R180: t is in [0, 30000]), and the truncation that gives it
rounds every number from 0 to 65535 toward zero (00_scope.md R8; that -0.0 is one of them is deduced, log entry 18). -/
def Obligations.CountsInRangeStayWithinThePeriod : Prop :=
  (∀ (fp : FpSubnormal) (p : F32), dutyOutOfRange fp p = false → (compareOf fp p).toNat ≤ 30000) ∧
  (∀ x : F32, isFinite x = true → 0 ≤ valueOf x → valueOf x ≤ 65535 →
    ((truncU16 x).toNat : ℚ) ≤ valueOf x ∧ valueOf x < (truncU16 x).toNat + 1)

/-- Counts of the published duties: 50, 13.9, 100, -0.0, 66.7 (truncated, not rounded), the smallest subnormal
(43_pwm.md R180). -/
def Obligations.CountsOfPublishedDuties : Prop :=
  compareOf .ieee 0x42480000#32 = 15000#16 ∧ compareOf .ieee 0x415E6666#32 = 4170#16 ∧
  compareOf .ieee 0x42C80000#32 = 30000#16 ∧ compareOf .ieee 0x80000000#32 = 0#16 ∧
  compareOf .ieee 0x42856666#32 = 20009#16 ∧ compareOf .ieee 0x00000001#32 = 0#16 ∧
  dutyOutOfRange .ieee 0x80000000#32 = false ∧ dutyOutOfRange .ieee 0x42C80000#32 = false ∧
  dutyOutOfRange .ieee 0x42C80001#32 = true ∧ dutyOutOfRange .ieee 0xC0A00000#32 = true ∧
  dutyOutOfRange .ieee 0x7FC00000#32 = true

/-! ### Binary32 arithmetic -/

/-- With FP_SUBNORMAL = IEEE, the sum and the difference of two finite numbers round once to nearest even; an exact zero sum
is +0.0 unless both operands are negative (00_scope.md R8). -/
def Obligations.AdditionIsCorrectlyRounded : Prop :=
  ∀ a b : F32, isFinite a = true → isFinite b = true →
    CorrectlyRounded (fadd .ieee a b) (valueOf a + valueOf b) ∧
    CorrectlyRounded (fsub .ieee a b) (valueOf a - valueOf b) ∧
    (valueOf a + valueOf b = 0 → fadd .ieee a b = if signOf a && signOf b then 0x80000000#32 else 0x00000000#32)

/-- With FP_SUBNORMAL = IEEE, the product of two finite numbers rounds once to nearest even and has the product's sign
(00_scope.md R8). -/
def Obligations.MultiplicationIsCorrectlyRounded : Prop :=
  ∀ a b : F32, isFinite a = true → isFinite b = true →
    CorrectlyRounded (fmul .ieee a b) (valueOf a * valueOf b) ∧ signOf (fmul .ieee a b) = (signOf a ^^ signOf b)

/-- With FP_SUBNORMAL = IEEE, the quotient of two finite numbers, the divisor not 0, rounds once to nearest even; a non-zero
number over a zero is an infinity (00_scope.md R8). -/
def Obligations.DivisionIsCorrectlyRounded : Prop :=
  ∀ a b : F32, isFinite a = true → isFinite b = true →
    (valueOf b ≠ 0 →
      CorrectlyRounded (fdiv .ieee a b) (valueOf a / valueOf b) ∧ signOf (fdiv .ieee a b) = (signOf a ^^ signOf b)) ∧
    (valueOf b = 0 → valueOf a ≠ 0 → fdiv .ieee a b = if signOf a ^^ signOf b then 0xFF800000#32 else 0x7F800000#32)

/-- With FP_SUBNORMAL = IEEE, the root of a finite number that is not negative is the binary32 number nearest to it: the
number lies on the result's side of the midpoint with every other one (00_scope.md R8). -/
def Obligations.SquareRootIsCorrectlyRounded : Prop :=
  ∀ a : F32, isFinite a = true → 0 ≤ valueOf a →
    isFinite (fsqrt .ieee a) = true ∧ 0 ≤ valueOf (fsqrt .ieee a) ∧
    ∀ y : F32, isFinite y = true → 0 ≤ valueOf y →
      (valueOf (fsqrt .ieee a) < valueOf y → valueOf a ≤ ((valueOf (fsqrt .ieee a) + valueOf y) / 2) ^ 2) ∧
      (valueOf y < valueOf (fsqrt .ieee a) → ((valueOf (fsqrt .ieee a) + valueOf y) / 2) ^ 2 ≤ valueOf a)

/-- A NaN operand, a difference of infinities, 0 times infinity, 0 over 0, infinity over infinity and the root of -infinity
give a quiet NaN, whatever its payload; a NaN compares neither smaller, nor greater, nor equal, but unequal. Every other
sum, product, quotient and root with an infinite operand is an infinity, but a finite number over an infinity, which is a
zero, with the sign IEEE 754 gives it (00_scope.md R8; 60_exceptions.md R202). Which settings of FP_SUBNORMAL read a subnormal
factor as a zero is the model's choice (log entry 9); IEEE does not. -/
def Obligations.InvalidOperationsGiveQuietNans : Prop :=
  ∀ (fp : FpSubnormal) (a b : F32),
    (isNan a = true ∨ isNan b = true →
      isQuietNan (fadd fp a b) = true ∧ isQuietNan (fsub fp a b) = true ∧ isQuietNan (fmul fp a b) = true ∧
      isQuietNan (fdiv fp a b) = true ∧ flt fp a b = false ∧ fgt fp a b = false ∧ feq fp a b = false ∧
      fne fp a b = true) ∧
    (isNan a = true → isQuietNan (fsqrt fp a) = true) ∧
    (∀ s : Bool, isQuietNan (fadd fp (infOf s) (infOf !s)) = true ∧ isQuietNan (fsub fp (infOf s) (infOf s)) = true) ∧
    (∀ s t : Bool, isQuietNan (fmul fp (zeroOf s) (infOf t)) = true ∧ isQuietNan (fmul fp (infOf s) (zeroOf t)) = true ∧
      isQuietNan (fdiv fp (zeroOf s) (zeroOf t)) = true ∧ isQuietNan (fdiv fp (infOf s) (infOf t)) = true) ∧
    (infOf false = 0x7F800000#32 ∧ infOf true = 0xFF800000#32 ∧ zeroOf false = 0x00000000#32 ∧
      zeroOf true = 0x80000000#32) ∧
    (isQuietNan (fsqrt fp (infOf true)) = true ∧ fsqrt fp (infOf false) = infOf false) ∧
    (∀ s t : Bool, fadd fp (infOf s) (infOf s) = infOf s ∧ fsub fp (infOf s) (infOf !s) = infOf s ∧
      fmul fp (infOf s) (infOf t) = infOf (s ^^ t)) ∧
    (isFinite b = true → ∀ s : Bool,
      fadd fp (infOf s) b = infOf s ∧ fadd fp b (infOf s) = infOf s ∧ fsub fp (infOf s) b = infOf s ∧
      fsub fp b (infOf s) = infOf (!s) ∧ fdiv fp (infOf s) b = infOf (s ^^ signOf b) ∧
      fdiv fp b (infOf s) = zeroOf (signOf b ^^ s) ∧
      (0x00800000 ≤ magnitudeOf b ∨ (flushesOperands fp = false ∧ magnitudeOf b ≠ 0) →
        fmul fp (infOf s) b = infOf (s ^^ signOf b) ∧ fmul fp b (infOf s) = infOf (signOf b ^^ s))) ∧
    flushesOperands .ieee = false

/-- With FP_SUBNORMAL = IEEE, the root of a number below 0 is a quiet NaN; with every setting, that of a zero is that zero
(41_kinematics.md R126). -/
def Obligations.RootsOfNegativeNumbersAreNans : Prop :=
  (∀ x : F32, flt .ieee x zero = true → isQuietNan (fsqrt .ieee x) = true) ∧
  (∀ (fp : FpSubnormal) (s : Bool), fsqrt fp (zeroOf s) = zeroOf s)

/-- The negated quotient is the quotient of the negated number bit for bit, so either reading of -R/(2 rw) gives the same
INV[0][1] (41_kinematics.md R120). -/
def Obligations.NegatingAQuotientNegatesTheNumerator : Prop :=
  ∀ (fp : FpSubnormal) (a b : F32), isNan (fdiv fp a b) = false → fneg (fdiv fp a b) = fdiv fp (fneg a) b

/-! ### Inverse kinematics -/

/-- With the signs that a positive wheel radius and length give the matrix, zero speeds give (+0.0, +0.0) and negative zeros
(+0.0, -0.0) (41_kinematics.md R122; 90_conflicts.md C16). -/
def Obligations.TheMatrixMultiplyOfZeros : Prop :=
  ∀ (fp : FpSubnormal) (inv : InvMatrix),
    isFinite inv.i00 = true → isFinite inv.i01 = true → isFinite inv.i10 = true → isFinite inv.i11 = true →
    signOf inv.i00 = false → signOf inv.i01 = true → signOf inv.i10 = false → signOf inv.i11 = false →
    ikVw fp inv 0x00000000#32 0x00000000#32 = ⟨0x00000000#32, 0x00000000#32⟩ ∧
    ikVw fp inv 0x80000000#32 0x80000000#32 = ⟨0x00000000#32, 0x80000000#32⟩

/-- The clamp of the goal-pose kinematics, on both wheels of both branches: to VMAX above, to -VMAX below, and everything else
as it is, a NaN among it (41_kinematics.md R127). -/
def Obligations.TheClampKeepsSpeedsWithinVmax : Prop :=
  (∀ (fp : FpSubnormal) (x : F32),
    (fgt fp x vMax = true → clampSpeed fp x = vMax) ∧
    (flt fp x (fneg vMax) = true → clampSpeed fp x = fneg vMax) ∧
    (fgt fp x vMax = false → flt fp x (fneg vMax) = false → clampSpeed fp x = x) ∧
    fgt fp (clampSpeed fp x) vMax = false ∧ flt fp (clampSpeed fp x) (fneg vMax) = false ∧
    (isNan x = true → clampSpeed fp x = x)) ∧
  (∀ fp : FpSubnormal,
    clampSpeed fp 0x7F800000#32 = 0x3E19999A#32 ∧ clampSpeed fp 0xFF800000#32 = 0xBE19999A#32 ∧
    clampSpeed fp 0x80000000#32 = 0x80000000#32 ∧ clampSpeed fp 0x3E19999A#32 = 0x3E19999A#32 ∧
    clampSpeed fp 0x40000000#32 = 0x3E19999A#32 ∧ clampSpeed fp 0x3D371759#32 = 0x3D371759#32) ∧
  (∀ (g : GoalSeekFunctions) (fp : FpSubnormal) (start goal : Pose),
    goalSeek g fp start goal =
      ⟨clampSpeed fp (goalWheels g fp start goal).wl, clampSpeed fp (goalWheels g fp start goal).wr⟩)

/-- IK_GOAL (`ikGoal`): the clamped goal-pose velocities through gain and offset to CMP[2] (left) and CMP[1] (right), each
duty out of range counted, one record, and nothing else: no slot, no CURSOR, no gripper channel
(41_kinematics.md R129, R130). -/
def Obligations.IkGoalDrivesTheTwoWheels : Prop :=
  ∀ (xs ys ths xg yg thg : F32) (s : State),
    ∃ t, exec (.ikGoal xs ys ths xg yg thg) s = .next t ∧
      (let fp := s.params.fp
       let w := goalSeek goalSeekFunctions fp ⟨xs, ys, ths⟩ ⟨xg, yg, thg⟩
       let dl := fadd fp (fmul fp s.params.f1 w.wl) s.params.f2
       let dr := fadd fp (fmul fp s.params.f1 w.wr) s.params.f2
       holdsCountOf fp dl t.cmp2 ∧ holdsCountOf fp dr t.cmp1 ∧
       t.diagDutyOor = s.diagDutyOor + dutyCount fp dl + dutyCount fp dr ∧
       t.trace = s.trace ++ [.ik (goalBranch fp ths thg) w.wl w.wr]) ∧
      (∀ a, Memory.readByte t.slots a = Memory.readByte s.slots a) ∧
      t = { s with cmp1 := t.cmp1, cmp2 := t.cmp2, diagDutyOor := t.diagDutyOor, draws := t.draws, trace := t.trace }

/-- IK_GOAL on headings less than EPS = 0x3B03126F apart: the straight branch, whose distance keeps the source's defect, the x term
(xg - xs) * (xg * xs); and otherwise the arc branch (41_kinematics.md R124, R125, R126, R128; 00_scope.md R9). -/
def Obligations.IkGoalKeepsTheDistanceDefect : Prop :=
  ∀ (xs ys ths xg yg thg : F32) (s : State),
    ∃ t, exec (.ikGoal xs ys ths xg yg thg) s = .next t ∧
      (let fp := s.params.fp
       let dx := fsub fp xg xs
       let dy := fsub fp yg ys
       let d := fsqrt fp (fadd fp (fmul fp dx (fmul fp xg xs)) (fmul fp dy dy))
       let v := clampSpeed fp (goalSeekFunctions.straightSpeed d)
       let a := goalSeekFunctions.arc xs ys ths xg yg thg
       (flt fp (fabs (fsub fp thg ths)) 0x3B03126F#32 = true → t.trace = s.trace ++ [.ik .straight v v]) ∧
       (flt fp (fabs (fsub fp thg ths)) 0x3B03126F#32 = false →
         t.trace = s.trace ++ [.ik .arc (clampSpeed fp a.1) (clampSpeed fp a.2)]))

/-! ### Dispatch -/

/-- SELECT by the operands' bits under IEEE comparison: a tracking error above 0 (+infinity among it, a NaN not) comes first, then
a goal X that is not a zero (42_dispatch.md R141). -/
def Obligations.ModeSelectionByPattern : Prop :=
  ∀ te gx : F32,
    (selectMode .ieee te gx = .trajectoryFollow ↔ 0 < te.toNat ∧ te.toNat ≤ 0x7F800000) ∧
    (selectMode .ieee te gx = .goalSeek ↔ ¬ (0 < te.toNat ∧ te.toNat ≤ 0x7F800000) ∧ gx.toNat % 2 ^ 31 ≠ 0) ∧
    (selectMode .ieee te gx = .directSpeed ↔ ¬ (0 < te.toNat ∧ te.toNat ≤ 0x7F800000) ∧ gx.toNat % 2 ^ 31 = 0)

/-- The corner cases of SELECT, a subnormal goal X under both kinds of FP_SUBNORMAL among them (42_dispatch.md R142). -/
def Obligations.ModeSelectionAtItsCorners : Prop :=
  ∀ (fp : FpSubnormal) (te gx : F32),
    (isNan te = true ∨ signOf te = true →
      selectMode fp te gx = if fne fp gx zero then .goalSeek else .directSpeed) ∧
    selectMode fp 0x7F800000#32 gx = .trajectoryFollow ∧
    (fgt fp te zero = false →
      selectMode fp te 0x80000000#32 = .directSpeed ∧
      (isNan gx = true → selectMode fp te gx = .goalSeek) ∧
      (0 < gx.toNat % 2 ^ 31 → gx.toNat % 2 ^ 31 < 2 ^ 23 →
        (flushesCompares fp = false → selectMode fp te gx = .goalSeek) ∧
        (flushesCompares fp = true → selectMode fp te gx = .directSpeed)) ∧
      flushesCompares .ieee = false)

/-- The branches of the heading regulator by the operand's bits under IEEE comparison: every heading error takes exactly one of the
four pieces, or none and 0.0 for a zero or a NaN (42_dispatch.md R145). -/
def Obligations.HeadingRegulatorBranchesByPattern : Prop :=
  ∀ (p : Params) (e : F32), p.fp = .ieee →
    let piece := fun (slope intercept : F32) => fmul .ieee p.k (fadd .ieee (fmul .ieee slope e) intercept)
    (0x3FC8F5C3 < e.toNat ∧ e.toNat ≤ 0x7F800000 → headingRegulator p e = piece p.tfA1 p.tfB1) ∧
    (0 < e.toNat ∧ e.toNat ≤ 0x3FC8F5C3 → headingRegulator p e = piece p.tfA2 p.tfB2) ∧
    (0xBFC8F5C3 < e.toNat ∧ e.toNat ≤ 0xFF800000 → headingRegulator p e = piece p.tfA3 p.tfB3) ∧
    (0x80000000 < e.toNat ∧ e.toNat ≤ 0xBFC8F5C3 → headingRegulator p e = piece p.tfA4 p.tfB4) ∧
    (e.toNat % 2 ^ 31 = 0 ∨ isNan e = true → headingRegulator p e = 0x00000000#32)

/-- TrajectoryFollow by the tracking error's bits under IEEE comparison: below 50 no rotation, from 50 on the regulator's; the wheel
velocities are the matrix product, not clamped, and the duties their gain and offset (42_dispatch.md R144, R146, R147). -/
def Obligations.TrajectoryFollowTurnsFromFiftyOn : Prop :=
  ∀ (p : Params) (inv : InvMatrix) (te e : F32), p.fp = .ieee → 0 < te.toNat → te.toNat ≤ 0x7F800000 →
    let w := if te.toNat < 0x42480000 then 0x00000000#32 else headingRegulator p e
    let wl := fadd .ieee (fmul .ieee inv.i00 p.vTrack) (fmul .ieee inv.i01 w)
    let wr := fadd .ieee (fmul .ieee inv.i10 p.vTrack) (fmul .ieee inv.i11 w)
    trajectoryFollow p inv te e =
      ⟨wl, wr, fadd .ieee (fmul .ieee p.f1 wl) p.f2, fadd .ieee (fmul .ieee p.f1 wr) p.f2⟩

/-- The gripper service by the mode's bits under IEEE comparison: a zero drives forward, 1.0 backward, every other pattern neither
(42_dispatch.md R160). -/
def Obligations.GripperServiceByPattern : Prop :=
  ∀ (p : Params) (m : F32), p.fp = .ieee →
    (m.toNat % 2 ^ 31 = 0 → gripDuties p m = ⟨p.gripDuty, 0x00000000#32⟩) ∧
    (m.toNat = 0x3F800000 → gripDuties p m = ⟨0x00000000#32, p.gripDuty⟩) ∧
    (m.toNat % 2 ^ 31 ≠ 0 → m.toNat ≠ 0x3F800000 → gripDuties p m = ⟨0x00000000#32, 0x00000000#32⟩)

/-- The enabled compute step: the mode of the snapshot, that mode's own path from SNAP and SNAP_POSE alone, all four channels
rewritten, every duty out of range counted, the tick counted, one record, and the tick left; no slot and no byte of
the slots changes (42_dispatch.md R140; 10_state.md R37, R38). The paths are written out: TrajectoryFollow and the matrix path of
DirectSpeed through the matrix and not clamped (R144, R146, R147, R149, R152), the turns past it (R150, R151), GoalSeek from
SNAP_POSE to SNAP[7..9], clamped on both branches (R155; 41_kinematics.md R124 to R129). -/
def Obligations.TheComputeStepDrivesAllFourChannels : Prop :=
  ∀ (s : State) (rest : List Move), s.input = .compute :: rest → s.tickPhase = .sampling →
    s.snapDone = BitVec.allOnes 26 →
    ∃ t, step s = .next t ∧
      (let p := s.params
       let m := selectMode p.fp (s.snapSlot 6) (s.snapSlot 7)
       let fp := p.fp
       let duty := fun x => fadd fp (fmul fp p.f1 x) p.f2
       let matrix := fun v w =>
         let wl := fadd fp (fmul fp s.inv.i00 v) (fmul fp s.inv.i01 w)
         let wr := fadd fp (fmul fp s.inv.i10 v) (fmul fp s.inv.i11 w)
         (⟨wl, wr, duty wl, duty wr⟩ : Drive)
       let d : Drive := match m with
         | .trajectoryFollow =>
           matrix p.vTrack
             (if flt fp (s.snapSlot 6) 0x42480000#32 then 0x00000000#32 else headingRegulator p (s.snapSlot 5))
         | .goalSeek =>
           let dx := fsub fp (s.snapSlot 7) s.snapPose.x
           let dy := fsub fp (s.snapSlot 8) s.snapPose.y
           let far := fsqrt fp (fadd fp (fmul fp dx (fmul fp (s.snapSlot 7) s.snapPose.x)) (fmul fp dy dy))
           let speed := goalSeekFunctions.straightSpeed far
           let arc := goalSeekFunctions.arc s.snapPose.x s.snapPose.y s.snapPose.th (s.snapSlot 7) (s.snapSlot 8)
             (s.snapSlot 9)
           let straight := flt fp (fabs (fsub fp (s.snapSlot 9) s.snapPose.th)) 0x3B03126F#32
           let wl := clampSpeed fp (if straight then speed else arc.1)
           let wr := clampSpeed fp (if straight then speed else arc.2)
           ⟨wl, wr, duty wl, duty wr⟩
         | .directSpeed =>
           if fgt fp (s.snapSlot 2) 0x00000000#32 then
             ⟨s.snapSlot 2, 0x42C80000#32, s.snapSlot 2, 0x42C80000#32⟩
           else if fgt fp (s.snapSlot 3) 0x00000000#32 then
             ⟨0x42C80000#32, s.snapSlot 3, 0x42C80000#32, s.snapSlot 3⟩
           else matrix (s.snapSlot 0) (s.snapSlot 1)
       let q := gripDuties p (s.snapSlot 4)
       holdsCountOf p.fp d.dr t.cmp1 ∧ holdsCountOf p.fp d.dl t.cmp2 ∧ holdsCountOf p.fp q.d3 t.cmp3 ∧
       holdsCountOf p.fp q.d4 t.cmp4 ∧
       t.diagDutyOor =
         s.diagDutyOor + dutyCount p.fp d.dr + dutyCount p.fp d.dl + dutyCount p.fp q.d3 + dutyCount p.fp q.d4 ∧
       t.trace = s.trace ++ [.tick m d.wl d.wr d.dl d.dr q.d3 q.d4]) ∧
      t.diagTicksSinceWrite.toNat = min (s.diagTicksSinceWrite.toNat + 1) (2 ^ 32 - 1) ∧
      t.tickPhase = (if s.tickPending then .sampling else .idle) ∧ t.tickPending = false ∧
      t.snapDone = (if s.tickPending then 0#26 else s.snapDone) ∧
      (∀ a, Memory.readByte t.slots a = Memory.readByte s.slots a) ∧
      t = { s with cmp1 := t.cmp1, cmp2 := t.cmp2, cmp3 := t.cmp3, cmp4 := t.cmp4, diagDutyOor := t.diagDutyOor
                   draws := t.draws, trace := t.trace, diagTicksSinceWrite := t.diagTicksSinceWrite
                   tickPhase := t.tickPhase, tickPending := t.tickPending, snapDone := t.snapDone
                   statusPort := none, input := rest }

/-- The three paths of DirectSpeed, the left test before the right one. On a turn the magnitude is a duty percent handed to its
own wheel as it is while the other wheel gets 100, that is a count of 30000. With neither magnitude above 0, a NaN among
them, the matrix product of SNAP[0] and SNAP[1], not clamped, and its duties by gain and offset
(42_dispatch.md R149, R150, R151, R152). -/
def Obligations.TurnPathsBypassTheMatrix : Prop :=
  ∀ (s : State) (rest : List Move), s.input = .compute :: rest → s.tickPhase = .sampling →
    s.snapDone = BitVec.allOnes 26 → selectMode s.params.fp (s.snapSlot 6) (s.snapSlot 7) = .directSpeed →
    let fp := s.params.fp
    let l := s.snapSlot 2
    let r := s.snapSlot 3
    let q := gripDuties s.params (s.snapSlot 4)
    (fgt fp l zero = true →
      ∃ t, step s = .next t ∧ t.cmp1 = 30000#16 ∧ holdsCountOf fp l t.cmp2 ∧
        t.diagDutyOor = s.diagDutyOor + dutyCount fp l + dutyCount fp q.d3 + dutyCount fp q.d4 ∧
        t.trace = s.trace ++ [.tick .directSpeed l hundred l hundred q.d3 q.d4]) ∧
    (fgt fp l zero = false → fgt fp r zero = true →
      ∃ t, step s = .next t ∧ t.cmp2 = 30000#16 ∧ holdsCountOf fp r t.cmp1 ∧
        t.diagDutyOor = s.diagDutyOor + dutyCount fp r + dutyCount fp q.d3 + dutyCount fp q.d4 ∧
        t.trace = s.trace ++ [.tick .directSpeed hundred r hundred r q.d3 q.d4]) ∧
    (fgt fp l zero = false → fgt fp r zero = false →
      let wl := fadd fp (fmul fp s.inv.i00 (s.snapSlot 0)) (fmul fp s.inv.i01 (s.snapSlot 1))
      let wr := fadd fp (fmul fp s.inv.i10 (s.snapSlot 0)) (fmul fp s.inv.i11 (s.snapSlot 1))
      let dl := fadd fp (fmul fp s.params.f1 wl) s.params.f2
      let dr := fadd fp (fmul fp s.params.f1 wr) s.params.f2
      ∃ t, step s = .next t ∧ holdsCountOf fp dl t.cmp2 ∧ holdsCountOf fp dr t.cmp1 ∧
        t.diagDutyOor =
          s.diagDutyOor + dutyCount fp dr + dutyCount fp dl + dutyCount fp q.d3 + dutyCount fp q.d4 ∧
        t.trace = s.trace ++ [.tick .directSpeed wl wr dl dr q.d3 q.d4])

/-- The drive logic never reads SNAP[4], and the gripper reads nothing else (42_dispatch.md R161). -/
def Obligations.DriveAndGripperReadDifferentSlots : Prop :=
  ∀ (g : GoalSeekFunctions) (s : State) (u : Vector U16 26),
    ((∀ k : Fin 26, k.val ≠ 8 → k.val ≠ 9 → u[k.val] = s.snap[k.val]) →
      ({ s with snap := u } : State).drive g = s.drive g ∧ ({ s with snap := u } : State).mode = s.mode) ∧
    (u[8] = s.snap[8] → u[9] = s.snap[9] → ({ s with snap := u } : State).grip = s.grip)

/-! ### The tick -/

/-- TICK_1MS (`tick1ms`) that finds TICK_PHASE = IDLE changes TICK_PHASE and SNAP_DONE and nothing else (60_exceptions.md R206). -/
def Obligations.TickEntryChangesOnlyPhaseAndMask : Prop :=
  ∀ s : State, s.tickPhase = .idle → exec .tick1ms s = .next { s with tickPhase := .sampling, snapDone := 0#26 }

/-- TICK_1MS (`tick1ms`) during a tick sets TICK_PENDING and nothing else; any number of arrivals count as one; and when the
compute step of the tick in progress completes, the pending tick starts at once (60_exceptions.md R205). -/
def Obligations.AnOverrunLatchesOnePendingTick : Prop :=
  ∀ s : State, s.tickPhase = .sampling →
    exec .tick1ms s = .next { s with tickPending := true } ∧
    (∀ (n : Nat) (rest : List Move),
      stepN (n + 1) { s with input := List.replicate (n + 1) (.event none [0x40#8]) ++ rest } =
        .next { s with tickPending := true, statusPort := none, hostSplit := none, input := rest }) ∧
    (∀ rest : List Move, s.input = .compute :: rest → s.snapDone = BitVec.allOnes 26 → s.tickPending = true →
      ∃ t, step s = .next t ∧ t.tickPhase = .sampling ∧ t.snapDone = 0#26 ∧ t.tickPending = false)

/-- TICK_10MS (`tick10ms`) and TICK_50MS (`tick50ms`) change nothing, in any state (42_dispatch.md R165, R166). -/
def Obligations.ThePlaceholderTicksChangeNothing : Prop :=
  ∀ s : State, exec .tick10ms s = .next s ∧ exec .tick50ms s = .next s

/-- An enabled sampling step with TEAR_BITS = 16 reads one half, of a slot as last written or of the driven pose, and sets its
bit; with TEAR_BITS = 32 it reads both halves of the value; nothing else changes but a draw for an undriven pose
(20_memory.md R54, R58, R59; 10_state.md R33). The numbers of the bits are the model's choice (log entry 13). -/
def Obligations.ASamplingStepReadsItsHalf : Prop :=
  ∀ (s : State) (k : Fin 26) (rest : List Move), s.input = .sample k :: rest → s.tickPhase = .sampling →
    s.snapDone.getLsbD k.val = false →
    ∃ t, step s = .next t ∧
      (∀ j : Fin 26, j = k ∨ (s.params.tearBits = .b32 ∧ j.val / 2 = k.val / 2) →
        t.snapDone.getLsbD j.val = true ∧
        (∀ h : j.val / 2 < 10,
          t.snap[j.val] = Memory.readHalf s.slots ⟨j.val / 2, h⟩ (if j.val % 2 = 0 then .lo else .hi)) ∧
        (∀ q, s.posePort = some q → 10 ≤ j.val / 2 →
          t.snap[j.val] = halfOf (q.component (j.val / 2 - 10)) (if j.val % 2 = 0 then .lo else .hi))) ∧
      (∀ j : Fin 26, ¬ (j = k ∨ (s.params.tearBits = .b32 ∧ j.val / 2 = k.val / 2)) →
        t.snapDone.getLsbD j.val = s.snapDone.getLsbD j.val ∧ t.snap[j.val] = s.snap[j.val]) ∧
      (k.val / 2 < 10 ∨ s.posePort.isSome = true → t.draws = s.draws) ∧
      (∀ a, Memory.readByte t.slots a = Memory.readByte s.slots a) ∧
      t = { s with snap := t.snap, snapDone := t.snapDone, draws := t.draws, statusPort := none, input := rest }

/-- Without a racing write the snapshot is the slots and the driven pose, in whatever order the 26 halves are read, with
either TEAR_BITS: the sampling order cannot be seen, and no slot changes. Of a pose that is not driven the snapshot holds
free values, of which nothing is said (20_memory.md R54, R58, R60; 10_state.md R33). -/
def Obligations.WithoutARaceTheSnapshotIsTheSlots : Prop :=
  ∀ (s : State) (order : List (Fin 26)) (rest : List Move), order.Perm (List.finRange 26) → s.tickPhase = .idle →
    s.input = .event none [0x40#8] :: (order.map Move.sample ++ rest) →
    ∃ t, stepN 27 s = .next t ∧ t.snapDone = BitVec.allOnes 26 ∧ t.tickPhase = .sampling ∧
      (∀ i, t.snapSlot i = s.slot i) ∧ (∀ p, s.posePort = some p → t.snapPose = p ∧ t.draws = s.draws) ∧
      t.slots = s.slots ∧ t.input = rest ∧
      t = { s with snap := t.snap, snapDone := t.snapDone, draws := t.draws, tickPhase := .sampling
                   statusPort := none, hostSplit := none, input := rest }

/-- A write straddling the sampling of its slot is seen torn: the half written first is new and the other one old. If the
tick then computes and the next one samples the slot, that sampling sees the new value whole (20_memory.md R55;
70_reset_and_hazards.md R243; the numbers of the bits are the model's choice, log entry 13). -/
def Obligations.ARacingReadIsTorn : Prop :=
  ∀ (s : State) (i : Fin 10) (v : F32) (h : Half) (a b : Fin 26) (later : List Move),
    Memory.wf s.slots = true → s.params.tearBits = .b16 → s.hostWrite = none → s.tickPhase = .sampling →
    a.val = 2 * i.val → b.val = 2 * i.val + 1 →
    s.snapDone.getLsbD a.val = false → s.snapDone.getLsbD b.val = false →
    s.input = .event (some h) (encode (slotEvent i v)) :: .sample b :: .sample a :: .hostHalf :: later →
    (∃ t u, stepN 3 s = .next t ∧ stepN 4 s = .next u ∧
      t.snapSlot i =
        (match h with
         | .hi => joinHalves (halfOf v .hi) (halfOf (s.slot i) .lo)
         | .lo => joinHalves (halfOf (s.slot i) .hi) (halfOf v .lo)) ∧
      u.snapSlot i = t.snapSlot i ∧ u.slot i = v ∧ u.cursor = BitVec.ofNat 4 i.val) ∧
    (∀ rest : List Move, (∀ k : Fin 26, k ≠ a → k ≠ b → s.snapDone.getLsbD k.val = true) →
      later = .compute :: .event none [0x40#8] :: .sample b :: .sample a :: rest →
      ∃ w, stepN 8 s = .next w ∧ w.snapSlot i = v ∧ w.slot i = v ∧ w.tickPhase = .sampling ∧
        w.trace.length = s.trace.length + 1 ∧ w.input = rest)

/-- A tick in progress always computes: with the schedule used up, at most 27 steps later one more record stands in the trace, and
unless a tick was pending the block is idle, whatever order the samplings took (42_dispatch.md R140, R167;
70_reset_and_hazards.md R250). That the tick agent then moves at once is the model's choice (log entry 2). -/
def Obligations.ATickInProgressAlwaysComputes : Prop :=
  ∀ s : State, s.input = [] → s.tickPhase = .sampling →
    ∃ (n : Nat) (t : State) (m : Mode) (wl wr dl dr d3 d4 : F32), n ≤ 27 ∧ stepN n s = .next t ∧
      t.trace = s.trace ++ [.tick m wl wr dl dr d3 d4] ∧ t.slots = s.slots ∧ t.input = [] ∧
      t.tickPhase = (if s.tickPending then .sampling else .idle)

/-- What has not been sampled in the tick in progress is never seen: two states that differ in such halves of the snapshot alone
take the same step, to states that again differ in such halves alone, or are refused for the same reason
(10_state.md R30). -/
def Obligations.UnsampledValuesAreNeverSeen : Prop :=
  ∀ s t : State, SameButUnsampled s t →
    (∀ s', step s = .next s' → ∃ t', step t = .next t' ∧ SameButUnsampled s' t') ∧
    (∀ r, step s = .refused r → step t = .refused r)

/-- The compute step makes direct writes void: whatever the four compare registers held, the next state is the same
(70_reset_and_hazards.md R247). For a duty out of range that rests on the model's choice that a drawn count depends on the
counter of draws alone, which the two runs share (log entry 7). -/
def Obligations.ComputeOverwritesDirectWrites : Prop :=
  ∀ (s : State) (rest : List Move) (n1 n2 n3 n4 : U16), s.input = .compute :: rest → s.tickPhase = .sampling →
    s.snapDone = BitVec.allOnes 26 →
    step { s with cmp1 := n1, cmp2 := n2, cmp3 := n3, cmp4 := n4 } = step s

/-! ### Reset -/

/-- RESET (`reset`): every slot +0.0, CURSOR 0, CMP[1..4] 0, the tick in progress and the pending one abandoned, the half-written
slot discarded, both counters 0, the constants as they were, and RESET twice the same as once
(70_reset_and_hazards.md R230). That the half-write still owed is dropped, and that trace, pose and schedule stay, is the
model's reading (log entries 5, 19). -/
def Obligations.ResetRestoresTheChannel : Prop :=
  ∀ s : State, ∃ t, exec .reset s = .next t ∧ exec .reset t = .next t ∧ (∀ i, t.slot i = 0x00000000#32) ∧
    (∀ a, Memory.readByte t.slots a = 0#8) ∧ t.cursor = 0#4 ∧ (∀ c, t.cmp c = 0#16) ∧ t.tickPhase = .idle ∧
    t.tickPending = false ∧ t.snapDone = 0#26 ∧ t.diagDutyOor = 0#32 ∧ t.diagTicksSinceWrite = 0#32 ∧
    t.hostWrite = none ∧
    t = { s with slots := t.slots, cursor := t.cursor, cmp1 := t.cmp1, cmp2 := t.cmp2, cmp3 := t.cmp3, cmp4 := t.cmp4
                 snap := t.snap, snapDone := t.snapDone, tickPhase := t.tickPhase, tickPending := t.tickPending
                 diagDutyOor := t.diagDutyOor, diagTicksSinceWrite := t.diagTicksSinceWrite, hostWrite := t.hostWrite }

/-- The state after reset: the values of 10_state.md section 1, and the matrix as 41_kinematics.md R120 evaluates it. -/
def Obligations.TheResetStateHasTheGivenValues : Prop :=
  (∀ i, State.reset.slot i = 0x00000000#32) ∧ State.reset.cursor = 0#4 ∧ (∀ c, State.reset.cmp c = 0#16) ∧
  State.reset.snapDone = 0#26 ∧ State.reset.tickPhase = .idle ∧ State.reset.tickPending = false ∧
  State.reset.diagDutyOor = 0#32 ∧ State.reset.diagTicksSinceWrite = 0#32 ∧
  (let p := State.reset.params
   State.reset.inv =
     ⟨fdiv p.fp 0x3F800000#32 p.rw, fneg (fdiv p.fp p.r (fmul p.fp 0x40000000#32 p.rw)),
      fdiv p.fp 0x3F800000#32 p.rw, fdiv p.fp p.r (fmul p.fp 0x40000000#32 p.rw)⟩)

/-- The first tick after reset with no host write takes DirectSpeed through the matrix path with v = w = +0.0 and moves the gripper
forward, in whatever order it samples (70_reset_and_hazards.md R233, R240). -/
def Obligations.TheFirstTickAfterResetDrivesTheGripper : Prop :=
  ∀ (order : List (Fin 26)), order.Perm (List.finRange 26) →
    ∃ t, stepN 28
        { State.reset with input := .event none [0x40#8] :: (order.map Move.sample ++ [.compute]) } = .next t ∧
      (let p := State.reset.params
       let w := ikVw p.fp State.reset.inv 0x00000000#32 0x00000000#32
       let dl := dutyOf p w.wl
       let dr := dutyOf p w.wr
       t.trace = [.tick .directSpeed w.wl w.wr dl dr p.gripDuty 0x00000000#32] ∧
       holdsCountOf p.fp dr t.cmp1 ∧ holdsCountOf p.fp dl t.cmp2 ∧ holdsCountOf p.fp p.gripDuty t.cmp3) ∧
      t.cmp4 = 0#16 ∧ t.diagTicksSinceWrite = 1#32 ∧ t.tickPhase = .idle

/-! ### The whole machine -/

/-- Every step keeps the invariant (10_state.md R26, R32; 20_memory.md R50, R55). -/
def Obligations.EveryStepKeepsTheInvariant : Prop :=
  ∀ s t : State, s.Inv → step s = .next t → t.Inv

/-- The state after reset meets the invariant. -/
def Obligations.ResetMeetsTheInvariant : Prop := State.reset.Inv

/-- No step changes a parameter or the matrix (00_scope.md R5; 10_state.md R28, R29). -/
def Obligations.NoStepChangesAConstant : Prop :=
  ∀ s t : State, step s = .next t → t.params = s.params ∧ t.inv = s.inv

/-- Only the host and RESET write slots: a step that changes the slot memory performs a host command, a half-write the host owes,
or a reset (10_state.md R25; 20_memory.md R66). -/
def Obligations.OnlyTheHostAndResetWriteSlots : Prop :=
  ∀ s t : State, step s = .next t → t.slots ≠ s.slots →
    ∃ m rest, s.input = m :: rest ∧
      ((m = .hostHalf ∧ s.hostWrite.isSome = true) ∨
        ∃ split word i, m = .event split word ∧ decode word = .ok i ∧
          ((∃ j v, i = slotEvent j v) ∨ (i.port = .host ∧ s.hostWrite.isSome = true) ∨ i = .reset))

/-- Only a compute step, SET_DUTY of that channel, IK_GOAL on the wheels, and RESET change a compare register: it keeps its value
until the next write (10_state.md R27; 43_pwm.md R183). -/
def Obligations.CompareRegistersKeepTheirValue : Prop :=
  ∀ (s t : State) (c : Channel), step s = .next t → t.cmp c ≠ s.cmp c →
    (s.tickPhase = .sampling ∧ s.snapDone = BitVec.allOnes 26 ∧ (s.input = [] ∨ ∃ rest, s.input = .compute :: rest)) ∨
    ∃ split word i rest, s.input = .event split word :: rest ∧ decode word = .ok i ∧
      ((∃ p, i = dutyEvent c p) ∨
        ((c = .rightWheel ∨ c = .leftWheel) ∧ ∃ xs ys ths xg yg thg, i = .ikGoal xs ys ths xg yg thg) ∨ i = .reset)

/-- TICK_PHASE moves from IDLE to SAMPLING by TICK_1MS alone, and back by a compute step or RESET alone (10_state.md R31;
70_reset_and_hazards.md R230). -/
def Obligations.TickPhaseMovesOnlyByTickComputeAndReset : Prop :=
  ∀ s t : State, step s = .next t →
    (s.tickPhase = .idle → t.tickPhase = .sampling →
      ∃ split word rest, s.input = .event split word :: rest ∧ decode word = .ok .tick1ms) ∧
    (s.tickPhase = .sampling → t.tickPhase = .idle →
      (s.snapDone = BitVec.allOnes 26 ∧ s.tickPending = false ∧ (s.input = [] ∨ ∃ rest, s.input = .compute :: rest)) ∨
      ∃ split word rest, s.input = .event split word :: rest ∧ decode word = .ok .reset)

/-- DIAG_TICKS_SINCE_WRITE in every step: a compute step counts one up, saturating at 2^32 - 1; a step that completes a write
of the host, or a RESET, sets it to 0; every other step leaves it as it is (10_state.md R37; 40_host_commands.md R90;
70_reset_and_hazards.md R230). Which step a waiting command takes, and that the tick agent goes on once the schedule is used
up, is the model's choice (log entries 20, 2). -/
def Obligations.TicksSinceWriteCountsAndSaturates : Prop :=
  ∀ s t : State, step s = .next t →
    (s.computesNext → t.diagTicksSinceWrite.toNat = min (s.diagTicksSinceWrite.toNat + 1) (2 ^ 32 - 1)) ∧
    (s.completesWriteNext ∨ s.resetsNext → t.diagTicksSinceWrite = 0#32) ∧
    (¬ s.computesNext → ¬ s.completesWriteNext → ¬ s.resetsNext → t.diagTicksSinceWrite = s.diagTicksSinceWrite)
end

