-- ==== Sys2Proof/Laws/Decode.lean ====
section
/-! SUPPORT. The operand fields of an event word: the bytes of a field give the field back. -/

namespace Sys2Proof

set_option Elab.async false

/-- A field from its own bytes. -/
theorem operandOf_bytes (a : F32) :
    operandOf (a.extractLsb' 24 8) (a.extractLsb' 16 8) (a.extractLsb' 8 8) (a.extractLsb' 0 8) = a := by
  unfold operandOf
  apply BitVec.eq_of_getLsbD_eq
  intro k hk
  simp only [BitVec.getLsbD_append, BitVec.getLsbD_extractLsb']
  by_cases h8 : k < 8
  · simp [h8]
  · by_cases h16 : k < 16
    · simp [h8, show k - 8 < 8 by omega, show 8 + (k - 8) = k by omega]
    · by_cases h24 : k < 24
      · simp [h8, show ¬ k - 8 < 8 by omega, show k - 8 - 8 < 8 by omega, show 16 + (k - 8 - 8) = k by omega]
      · simp [h8, show ¬ k - 8 < 8 by omega, show ¬ k - 8 - 8 < 8 by omega, show k - 8 - 8 - 8 < 8 by omega,
          show 24 + (k - 8 - 8 - 8) = k by omega]

/-- All fields from their own bytes. -/
theorem operandsOf_bytes (as : List F32) : operandsOf (as.flatMap bytesOfOperand) = some as := by
  induction as with
  | nil => rfl
  | cons a as ih =>
    simp only [List.flatMap_cons, bytesOfOperand, List.cons_append, List.nil_append, operandsOf, operandOf_bytes]
    rw [ih]
    rfl

end Sys2Proof
end

