-- ==== Sys2Proof/Laws/Float.lean ====
section
/-! SUPPORT. Laws of the binary32 arithmetic: the NaN a primitive produces, rounding by a shift, and the comparisons. -/

namespace Sys2Proof.Machine

set_option Elab.async false

open Sys2Proof.Config

/-- The NaN a primitive produces is a quiet NaN, whatever its free bits (00_scope.md R8). -/
theorem producedNan_toNat (op : Nat) (a b : F32) :
    (producedNan op a b).toNat =
      (freeNan op a b).toNat / 2 ^ 22 * 2 ^ 31 + 0x7FC00000 + (freeNan op a b).toNat % 2 ^ 22 := by
  have h := (freeNan op a b).isLt
  simp only [producedNan, BitVec.toNat_ofNat]
  omega

@[simp] theorem isNan_producedNan (op : Nat) (a b : F32) : isNan (producedNan op a b) = true := by
  have h := (freeNan op a b).isLt
  simp only [isNan, magnitudeOf, producedNan_toNat, decide_eq_true_eq]
  omega

@[simp] theorem quiet_producedNan (op : Nat) (a b : F32) : (producedNan op a b).getLsbD 22 = true := by
  have h := (freeNan op a b).isLt
  rw [← BitVec.testBit_toNat, producedNan_toNat, Nat.testBit_eq_decide_div_mod_eq]
  simp only [decide_eq_true_eq]
  omega

theorem magnitudeOf_fabs (x : F32) : magnitudeOf (fabs x) = magnitudeOf x := by
  have h : (x.toNat &&& 0x7FFFFFFF) % 2 ^ 31 = x.toNat % 2 ^ 31 := by
    rw [show 0x7FFFFFFF = 2 ^ 31 - 1 from rfl, Nat.and_two_pow_sub_one_eq_mod, Nat.mod_mod]
  simpa [magnitudeOf, fabs] using h

/-- The absolute value of a NaN is a NaN. -/
@[simp] theorem isNan_fabs (x : F32) : isNan (fabs x) = isNan x := by
  simp [isNan, magnitudeOf_fabs]

/-- A NaN is never smaller, greater or equal (00_scope.md R8). -/
@[simp] theorem flt_nan_left (fp : FpSubnormal) (a b : F32) (h : isNan a = true) : flt fp a b = false := by
  simp [flt, h]

@[simp] theorem flt_nan_right (fp : FpSubnormal) (a b : F32) (h : isNan b = true) : flt fp a b = false := by
  simp [flt, h]

@[simp] theorem feq_nan_left (fp : FpSubnormal) (a b : F32) (h : isNan a = true) : feq fp a b = false := by
  simp [feq, h]

@[simp] theorem fneg_infOf (s : Bool) : fneg (infOf s) = infOf (!s) := by cases s <;> rfl

/-- The operands that are no numbers, and the zeros, taken apart. -/
@[simp] theorem unpack_infOf (fp : FpSubnormal) (s : Bool) : unpack fp (infOf s) = .inf s := by
  cases s <;> simp [unpack, infOf, withSign, exponentOf, fractionOf, signOf]

@[simp] theorem unpack_zeroOf (fp : FpSubnormal) (s : Bool) : unpack fp (zeroOf s) = .fin s 0 (-149) := by
  cases s <;> simp [unpack, zeroOf, withSign, exponentOf, fractionOf, signOf]

/-- A magnitude below 2^31 is the magnitude of its pattern. -/
theorem withSign_toNat (s : Bool) (mag : Nat) (h : mag < 2 ^ 31) :
    (withSign s mag).toNat = (if s then 2 ^ 31 else 0) + mag := by
  simp only [withSign, BitVec.toNat_ofNat]
  split <;> omega

theorem magnitudeOf_withSign (s : Bool) (mag : Nat) (h : mag < 2 ^ 31) : magnitudeOf (withSign s mag) = mag := by
  simp only [magnitudeOf, withSign_toNat s mag h]
  split <;> omega

theorem signOf_withSign (s : Bool) (mag : Nat) (h : mag < 2 ^ 31) : signOf (withSign s mag) = s := by
  unfold signOf
  rw [← BitVec.testBit_toNat, withSign_toNat s mag h, Nat.testBit_eq_decide_div_mod_eq]
  cases s <;> simp <;> omega

/-- Rounding never goes beyond the infinity. -/
theorem roundMagnitude_le (m : Nat) (e : Int) : roundMagnitude m e ≤ 0x7F800000 := by
  unfold roundMagnitude
  split
  · omega
  · exact Nat.min_le_right _ _

theorem flushResult_le (fp : FpSubnormal) (mag : Nat) : flushResult fp mag ≤ mag := by
  unfold flushResult
  split <;> omega

/-- A rounded value is no NaN. -/
theorem isNan_roundF32 (fp : FpSubnormal) (s : Bool) (m : Nat) (e : Int) : isNan (roundF32 fp s m e) = false := by
  have h := Nat.le_trans (flushResult_le fp (roundMagnitude m e)) (roundMagnitude_le m e)
  unfold roundF32
  simp only [isNan, magnitudeOf_withSign s _ (show flushResult fp (roundMagnitude m e) < 2 ^ 31 by omega),
    decide_eq_false_iff_not]
  omega

/-- A rounded value has the sign it was given. -/
theorem signOf_roundF32 (fp : FpSubnormal) (s : Bool) (m : Nat) (e : Int) : signOf (roundF32 fp s m e) = s := by
  have h := Nat.le_trans (flushResult_le fp (roundMagnitude m e)) (roundMagnitude_le m e)
  exact signOf_withSign s _ (by omega)

/-- Rounding by a shift is off by at most half a unit. -/
theorem roundShift_near (n d : Nat) : 2 * n ≤ 2 * (roundShift n d * 2 ^ d) + 2 ^ d ∧
    2 * (roundShift n d * 2 ^ d) ≤ 2 * n + 2 ^ d := by
  cases d with
  | zero => simp [roundShift]
  | succ d =>
    have hdiv := Nat.div_add_mod n (2 ^ (d + 1))
    have hlt := Nat.mod_lt n (Nat.two_pow_pos (d + 1))
    have hpow : 2 ^ (d + 1) = 2 * 2 ^ d := by rw [Nat.pow_succ, Nat.mul_comm]
    generalize hq : n / 2 ^ (d + 1) = q at *
    generalize hr : n % 2 ^ (d + 1) = r at *
    simp only [roundShift, hq, hr, Nat.add_sub_cancel, if_neg (Nat.succ_ne_zero d)]
    have hmod : q % 2 = 0 ∨ q % 2 = 1 := Nat.mod_two_eq_zero_or_one q
    generalize 2 ^ d = P at *
    rw [hpow] at hlt hdiv ⊢
    have hx : ∀ k, (q + k) * (2 * P) = 2 * P * q + k * (2 * P) := fun k => by ring
    have hx0 : q * (2 * P) = 2 * P * q := Nat.mul_comm _ _
    generalize 2 * P * q = X at *
    split
    · rw [hx]; omega
    · split
      · rcases hmod with h | h <;> rw [h, hx] <;> omega
      · rw [hx0]; omega

/-- Rounding by a shift keeps the order. -/
theorem roundShift_mono (n n' d : Nat) (h : n ≤ n') : roundShift n d ≤ roundShift n' d := by
  cases d with
  | zero => simpa [roundShift] using h
  | succ d =>
    have h1 := Nat.div_add_mod n (2 ^ (d + 1))
    have h2 := Nat.div_add_mod n' (2 ^ (d + 1))
    have l1 := Nat.mod_lt n (Nat.two_pow_pos (d + 1))
    have l2 := Nat.mod_lt n' (Nat.two_pow_pos (d + 1))
    have hq : n / 2 ^ (d + 1) ≤ n' / 2 ^ (d + 1) := Nat.div_le_div_right h
    simp only [roundShift, Nat.add_sub_cancel, if_neg (Nat.succ_ne_zero d)]
    rcases Nat.lt_or_eq_of_le hq with hlt | heq
    · split <;> split <;> (try split) <;> (try split) <;> omega
    · rw [← heq] at h2 ⊢
      have hr : n % 2 ^ (d + 1) ≤ n' % 2 ^ (d + 1) := by omega
      split <;> split <;> (try split) <;> (try split) <;> omega

end Sys2Proof.Machine
end

