-- ==== Sys2Proof/Laws/Memory.lean ====
section
/-! SUPPORT. The laws of the slot memory: the canonical form is kept, a read gives the last write to its place, and two
canonical memories that read alike are equal. -/

namespace Sys2Proof.Machine

set_option Elab.async false

@[simp] theorem readByte_consCell (a : Nat) (b : Byte) (m : Memory) (c : Nat) (h : Memory.readByte m a = Memory.unlisted) :
    Memory.readByte (Memory.consCell a b m) c = if a = c then b else Memory.readByte m c := by
  unfold Memory.consCell
  by_cases hb : b = Memory.unlisted
  · by_cases hc : a = c
    · subst hc; simp [hb, h]
    · simp [hb, hc]
  · simp [hb, Memory.readByte]

/-- Below the first offset of a canonical list nothing is listed. -/
theorem readByte_below (m : Memory) (lo a : Nat) (hw : Memory.wfFrom lo m = true) (h : a < lo) :
    Memory.readByte m a = Memory.unlisted := by
  induction m generalizing lo with
  | nil => rfl
  | cons cell m ih =>
    obtain ⟨k, v⟩ := cell
    simp only [Memory.wfFrom, Bool.and_eq_true, decide_eq_true_eq] at hw
    simp only [Memory.readByte, if_neg (show ¬ k = a by omega)]
    exact ih (k + 1) hw.2 (by omega)

/-- A canonical list from `lo` on is one from any lower offset on. -/
theorem wfFrom_mono (m : Memory) (lo lo' : Nat) (h : lo' ≤ lo) (hw : Memory.wfFrom lo m = true) :
    Memory.wfFrom lo' m = true := by
  cases m with
  | nil => rfl
  | cons cell m =>
    obtain ⟨k, v⟩ := cell
    simp only [Memory.wfFrom, Bool.and_eq_true, decide_eq_true_eq] at hw ⊢
    exact ⟨⟨⟨by omega, hw.1.1.2⟩, hw.1.2⟩, hw.2⟩

theorem wfFrom_consCell (a : Nat) (b : Byte) (m : Memory) (lo : Nat) (hlo : lo ≤ a) (ha : a < Memory.size)
    (hw : Memory.wfFrom (a + 1) m = true) : Memory.wfFrom lo (Memory.consCell a b m) = true := by
  unfold Memory.consCell
  split
  · exact wfFrom_mono m (a + 1) lo (by omega) hw
  · simp_all [Memory.wfFrom]

theorem wfFrom_writeByte (m : Memory) (lo a : Nat) (b : Byte) (hlo : lo ≤ a) (ha : a < Memory.size)
    (hw : Memory.wfFrom lo m = true) : Memory.wfFrom lo (Memory.writeByte m a b) = true := by
  induction m generalizing lo with
  | nil => exact wfFrom_consCell a b [] lo hlo ha rfl
  | cons cell m ih =>
    obtain ⟨k, v⟩ := cell
    simp only [Memory.wfFrom, Bool.and_eq_true, decide_eq_true_eq] at hw
    simp only [Memory.writeByte]
    split
    · refine wfFrom_consCell a b _ lo hlo ha ?_
      simp only [Memory.wfFrom, Bool.and_eq_true, decide_eq_true_eq]
      exact ⟨⟨⟨by omega, hw.1.1.2⟩, hw.1.2⟩, hw.2⟩
    · split
      next h => subst h; exact wfFrom_consCell a b m lo hlo ha hw.2
      next h1 h2 =>
        simp only [Memory.wfFrom, Bool.and_eq_true, decide_eq_true_eq]
        exact ⟨hw.1, ih (k + 1) (by omega) hw.2⟩

/-- Every write inside the region keeps the canonical form. -/
theorem wf_writeByte (m : Memory) (a : Nat) (b : Byte) (ha : a < Memory.size) (hw : Memory.wf m = true) :
    Memory.wf (Memory.writeByte m a b) = true :=
  wfFrom_writeByte m 0 a b (Nat.zero_le a) ha hw

theorem readByte_writeByte_from (m : Memory) (lo a : Nat) (b : Byte) (c : Nat) (hw : Memory.wfFrom lo m = true) :
    Memory.readByte (Memory.writeByte m a b) c = if a = c then b else Memory.readByte m c := by
  induction m generalizing lo with
  | nil => exact readByte_consCell a b [] c rfl
  | cons cell m ih =>
    obtain ⟨k, v⟩ := cell
    have hw' := hw
    simp only [Memory.wfFrom, Bool.and_eq_true, decide_eq_true_eq] at hw
    simp only [Memory.writeByte]
    split
    next hlt =>
      refine readByte_consCell a b _ c ?_
      simp only [Memory.readByte, if_neg (show ¬ k = a by omega)]
      exact readByte_below m (k + 1) a hw.2 (by omega)
    next hge =>
      split
      next heq =>
        subst heq
        rw [readByte_consCell a b m c (readByte_below m (a + 1) a hw.2 (by omega))]
        by_cases hc : a = c <;> simp [Memory.readByte, hc]
      next hne =>
        simp only [Memory.readByte, ih (k + 1) hw.2]
        by_cases hk : k = c
        · simp [hk, show ¬ a = c by omega]
        · simp [hk]

/-- A read after a write: the value written at its place, and every other place as before. -/
theorem readByte_writeByte (m : Memory) (a : Nat) (b : Byte) (c : Nat) (hw : Memory.wf m = true) :
    Memory.readByte (Memory.writeByte m a b) c = if a = c then b else Memory.readByte m c :=
  readByte_writeByte_from m 0 a b c hw

/-- A read after a write at the same place needs no canonical form. -/
@[simp] theorem readByte_writeByte_same (m : Memory) (a : Nat) (b : Byte) (hw : Memory.wf m = true) :
    Memory.readByte (Memory.writeByte m a b) a = b := by
  simp [readByte_writeByte m a b a hw]

/-- The canonical form makes memories that read alike the same list. -/
theorem eq_of_readByte_from (m n : Memory) (lo : Nat) (hm : Memory.wfFrom lo m = true) (hn : Memory.wfFrom lo n = true)
    (h : ∀ a, Memory.readByte m a = Memory.readByte n a) : m = n := by
  induction m generalizing lo n with
  | nil =>
    cases n with
    | nil => rfl
    | cons cell n =>
      obtain ⟨k, v⟩ := cell
      simp only [Memory.wfFrom, Bool.and_eq_true, decide_eq_true_eq] at hn
      have := h k
      simp only [Memory.readByte, if_true] at this
      exact absurd this.symm hn.1.2
  | cons cell m ih =>
    obtain ⟨k, v⟩ := cell
    have hm' := hm
    simp only [Memory.wfFrom, Bool.and_eq_true, decide_eq_true_eq] at hm
    cases n with
    | nil =>
      have := h k
      simp only [Memory.readByte, if_true] at this
      exact absurd this hm.1.2
    | cons cell' n =>
      obtain ⟨k', v'⟩ := cell'
      have hn' := hn
      simp only [Memory.wfFrom, Bool.and_eq_true, decide_eq_true_eq] at hn
      rcases Nat.lt_trichotomy k k' with hk | hk | hk
      · have := h k
        simp only [Memory.readByte, if_true, if_neg (show ¬ k' = k by omega)] at this
        exact absurd (this.trans (readByte_below n (k' + 1) k hn.2 (by omega))) hm.1.2
      · subst hk
        have hv : v = v' := by simpa [Memory.readByte] using h k
        subst hv
        congr 1
        refine ih n (k + 1) hm.2 hn.2 fun a => ?_
        by_cases ha : k = a
        · subst ha
          rw [readByte_below m (k + 1) k hm.2 (by omega), readByte_below n (k + 1) k hn.2 (by omega)]
        · simpa [Memory.readByte, ha] using h a
      · have := h k'
        simp only [Memory.readByte, if_true, if_neg (show ¬ k = k' by omega)] at this
        exact absurd (this.symm.trans (readByte_below m (k + 1) k' hm.2 (by omega))) hn.1.2

theorem eq_of_readByte (m n : Memory) (hm : Memory.wf m = true) (hn : Memory.wf n = true)
    (h : ∀ a, Memory.readByte m a = Memory.readByte n a) : m = n :=
  eq_of_readByte_from m n 0 hm hn h

theorem halfOffset_lt (i : Fin 10) (h : Half) : halfOffset i h + 1 < Memory.size := by
  cases h <;> simp [halfOffset, Half.offset, Memory.size] <;> omega

/-- A half write keeps the canonical form. -/
theorem wf_writeHalf (m : Memory) (i : Fin 10) (h : Half) (v : U16) (hw : Memory.wf m = true) :
    Memory.wf (Memory.writeHalf m i h v) = true := by
  have := halfOffset_lt i h
  exact wf_writeByte _ _ _ this (wf_writeByte _ _ _ (by omega) hw)

/-- A slot write keeps the canonical form. -/
theorem wf_writeSlot (m : Memory) (i : Fin 10) (v : F32) (hw : Memory.wf m = true) :
    Memory.wf (Memory.writeSlot m i v) = true :=
  wf_writeHalf _ _ _ _ (wf_writeHalf _ _ _ _ hw)

/-- The two bytes a half write stores, and every other byte as before. -/
theorem readByte_writeHalf (m : Memory) (i : Fin 10) (h : Half) (v : U16) (a : Nat) (hw : Memory.wf m = true) :
    Memory.readByte (Memory.writeHalf m i h v) a =
      if a = halfOffset i h then v.extractLsb' 0 8
      else if a = halfOffset i h + 1 then v.extractLsb' 8 8 else Memory.readByte m a := by
  have := halfOffset_lt i h
  unfold Memory.writeHalf
  rw [readByte_writeByte _ _ _ _ (wf_writeByte _ _ _ (by omega) hw), readByte_writeByte _ _ _ _ hw]
  by_cases h1 : a = halfOffset i h
  · simp [h1]
  · by_cases h2 : a = halfOffset i h + 1
    · simp [h2]
    · simp [h1, h2, Ne.symm h1, Ne.symm h2]

theorem halfOffset_inj (i j : Fin 10) (h g : Half) :
    halfOffset i h = halfOffset j g ↔ i = j ∧ h = g := by
  cases h <;> cases g <;> simp [halfOffset, Half.offset, Fin.ext_iff] <;> omega

theorem halfOffset_ne_succ (i j : Fin 10) (h g : Half) : halfOffset i h ≠ halfOffset j g + 1 := by
  cases h <;> cases g <;> simp [halfOffset, Half.offset] <;> omega

/-- A half read after a half write: the last write to that half, every other half as before (20_memory.md R59). -/
theorem readHalf_writeHalf (m : Memory) (i j : Fin 10) (h g : Half) (v : U16) (hw : Memory.wf m = true) :
    Memory.readHalf (Memory.writeHalf m i h v) j g = if j = i ∧ g = h then v else Memory.readHalf m j g := by
  unfold Memory.readHalf
  rw [readByte_writeHalf _ _ _ _ _ hw, readByte_writeHalf _ _ _ _ _ hw]
  by_cases he : j = i ∧ g = h
  · obtain ⟨rfl, rfl⟩ := he
    simp only [Nat.add_eq_left, one_ne_zero, if_false, if_true, and_self]
    apply BitVec.eq_of_getLsbD_eq
    intro k hk
    simp only [BitVec.getLsbD_append, BitVec.getLsbD_extractLsb']
    by_cases hk8 : k < 8
    · simp [hk8]
    · simp [hk8, show k - 8 < 8 by omega, show 8 + (k - 8) = k by omega]
  · have h1 : halfOffset j g ≠ halfOffset i h := fun hc => he ((halfOffset_inj _ _ _ _).1 hc)
    have h2 := halfOffset_ne_succ j i g h
    have h3 := halfOffset_ne_succ i j h g
    simp [he, h1, h2, Ne.symm h3]

theorem joinHalves_halfOf (v : F32) : joinHalves (halfOf v .hi) (halfOf v .lo) = v := by
  unfold joinHalves halfOf
  apply BitVec.eq_of_getLsbD_eq
  intro k hk
  simp only [BitVec.getLsbD_append, BitVec.getLsbD_extractLsb']
  by_cases hk16 : k < 16
  · simp [hk16]
  · simp [hk16, show k - 16 < 16 by omega, show 16 + (k - 16) = k by omega]

/-- A slot read after a slot write: the value written, every other slot as before. -/
theorem readSlot_writeSlot (m : Memory) (i j : Fin 10) (v : F32) (hw : Memory.wf m = true) :
    Memory.readSlot (Memory.writeSlot m i v) j = if j = i then v else Memory.readSlot m j := by
  unfold Memory.readSlot Memory.writeSlot
  simp only [readHalf_writeHalf _ _ _ _ _ _ (wf_writeHalf _ _ _ _ hw), readHalf_writeHalf _ _ _ _ _ _ hw]
  by_cases h : j = i <;> simp [h, joinHalves_halfOf]

/-- The halves of a joined value. -/
theorem halfOf_joinHalves (hi lo : U16) (h : Half) :
    halfOf (joinHalves hi lo) h = match h with | .hi => hi | .lo => lo := by
  cases h <;>
  · unfold joinHalves halfOf
    refine BitVec.eq_of_getLsbD_eq fun k hk => ?_
    simp only [BitVec.getLsbD_append, BitVec.getLsbD_extractLsb']
    simp [hk, show ¬ 16 + k < 16 by omega, show 16 + k - 16 = k by omega]

/-- The two half writes of a value, in either order, are the slot write (20_memory.md R55). -/
theorem writeHalf_writeHalf_other (m : Memory) (i : Fin 10) (v : F32) (h : Half) (hw : Memory.wf m = true) :
    Memory.writeHalf (Memory.writeHalf m i h (halfOf v h)) i h.other (halfOf v h.other) = Memory.writeSlot m i v := by
  cases h with
  | lo => rfl
  | hi =>
    have hwh := fun h u => wf_writeHalf m i h u hw
    refine eq_of_readByte _ _ (wf_writeHalf _ _ _ _ (hwh _ _)) (wf_writeSlot _ _ _ hw) fun a => ?_
    simp only [Memory.writeSlot, Half.other, readByte_writeHalf _ _ _ _ _ (hwh _ _), readByte_writeHalf _ _ _ _ _ hw,
      show halfOffset i .lo = 4 * i.val from rfl, show halfOffset i .hi = 4 * i.val + 2 from rfl]
    split_ifs <;> first | rfl | omega

/-- A slot write repeated is the slot write. -/
theorem writeSlot_writeSlot (m : Memory) (i : Fin 10) (v : F32) (hw : Memory.wf m = true) :
    Memory.writeSlot (Memory.writeSlot m i v) i v = Memory.writeSlot m i v := by
  have w1 := wf_writeHalf m i .lo (halfOf v .lo) hw
  have w2 := wf_writeSlot m i v hw
  have w3 := wf_writeHalf _ i .lo (halfOf v .lo) w2
  refine eq_of_readByte _ _ (wf_writeSlot _ _ _ w2) w2 fun a => ?_
  unfold Memory.writeSlot at *
  simp only [readByte_writeHalf _ _ _ _ _ w3, readByte_writeHalf _ _ _ _ _ w2, readByte_writeHalf _ _ _ _ _ w1,
    readByte_writeHalf _ _ _ _ _ hw]
  split_ifs <;> rfl

end Sys2Proof.Machine
end

