-- ==== Sys2Proof/Laws/State.lean ====
section
/-! SUPPORT. One lemma for each field under each shared operation, so that no later proof unfolds a record update. -/

namespace Sys2Proof.Machine

set_option Elab.async false

@[simp] theorem cmp_setCmp (s : State) (c d : Channel) (n : U16) :
    (s.setCmp c n).cmp d = if d = c then n else s.cmp d := by
  cases c <;> cases d <;> rfl

/-! `noteSlotWritten` -/

@[simp] theorem noteSlotWritten_slots (i : Fin 10) (s : State) : (noteSlotWritten i s).slots = s.slots := rfl
@[simp] theorem noteSlotWritten_cursor (i : Fin 10) (s : State) : (noteSlotWritten i s).cursor = BitVec.ofNat 4 i.val := rfl
@[simp] theorem noteSlotWritten_cmp1 (i : Fin 10) (s : State) : (noteSlotWritten i s).cmp1 = s.cmp1 := rfl
@[simp] theorem noteSlotWritten_cmp2 (i : Fin 10) (s : State) : (noteSlotWritten i s).cmp2 = s.cmp2 := rfl
@[simp] theorem noteSlotWritten_cmp3 (i : Fin 10) (s : State) : (noteSlotWritten i s).cmp3 = s.cmp3 := rfl
@[simp] theorem noteSlotWritten_cmp4 (i : Fin 10) (s : State) : (noteSlotWritten i s).cmp4 = s.cmp4 := rfl
@[simp] theorem noteSlotWritten_inv (i : Fin 10) (s : State) : (noteSlotWritten i s).inv = s.inv := rfl
@[simp] theorem noteSlotWritten_params (i : Fin 10) (s : State) : (noteSlotWritten i s).params = s.params := rfl
@[simp] theorem noteSlotWritten_snap (i : Fin 10) (s : State) : (noteSlotWritten i s).snap = s.snap := rfl
@[simp] theorem noteSlotWritten_snapDone (i : Fin 10) (s : State) : (noteSlotWritten i s).snapDone = s.snapDone := rfl
@[simp] theorem noteSlotWritten_tickPhase (i : Fin 10) (s : State) : (noteSlotWritten i s).tickPhase = s.tickPhase := rfl
@[simp] theorem noteSlotWritten_tickPending (i : Fin 10) (s : State) : (noteSlotWritten i s).tickPending = s.tickPending := rfl
@[simp] theorem noteSlotWritten_diagDutyOor (i : Fin 10) (s : State) : (noteSlotWritten i s).diagDutyOor = s.diagDutyOor := rfl
@[simp] theorem noteSlotWritten_diagTicksSinceWrite (i : Fin 10) (s : State) : (noteSlotWritten i s).diagTicksSinceWrite = 0#32 := rfl
@[simp] theorem noteSlotWritten_hostWrite (i : Fin 10) (s : State) : (noteSlotWritten i s).hostWrite = s.hostWrite := rfl
@[simp] theorem noteSlotWritten_statusPort (i : Fin 10) (s : State) : (noteSlotWritten i s).statusPort = s.statusPort := rfl
@[simp] theorem noteSlotWritten_trace (i : Fin 10) (s : State) : (noteSlotWritten i s).trace = s.trace := rfl
@[simp] theorem noteSlotWritten_posePort (i : Fin 10) (s : State) : (noteSlotWritten i s).posePort = s.posePort := rfl
@[simp] theorem noteSlotWritten_hostSplit (i : Fin 10) (s : State) : (noteSlotWritten i s).hostSplit = s.hostSplit := rfl
@[simp] theorem noteSlotWritten_input (i : Fin 10) (s : State) : (noteSlotWritten i s).input = s.input := rfl
@[simp] theorem noteSlotWritten_draws (i : Fin 10) (s : State) : (noteSlotWritten i s).draws = s.draws := rfl

/-! `writeWholeSlot` -/

@[simp] theorem writeWholeSlot_slots (i : Fin 10) (v : F32) (s : State) : (writeWholeSlot i v s).slots = Memory.writeSlot s.slots i v := rfl
@[simp] theorem writeWholeSlot_cursor (i : Fin 10) (v : F32) (s : State) : (writeWholeSlot i v s).cursor = BitVec.ofNat 4 i.val := rfl
@[simp] theorem writeWholeSlot_cmp1 (i : Fin 10) (v : F32) (s : State) : (writeWholeSlot i v s).cmp1 = s.cmp1 := rfl
@[simp] theorem writeWholeSlot_cmp2 (i : Fin 10) (v : F32) (s : State) : (writeWholeSlot i v s).cmp2 = s.cmp2 := rfl
@[simp] theorem writeWholeSlot_cmp3 (i : Fin 10) (v : F32) (s : State) : (writeWholeSlot i v s).cmp3 = s.cmp3 := rfl
@[simp] theorem writeWholeSlot_cmp4 (i : Fin 10) (v : F32) (s : State) : (writeWholeSlot i v s).cmp4 = s.cmp4 := rfl
@[simp] theorem writeWholeSlot_inv (i : Fin 10) (v : F32) (s : State) : (writeWholeSlot i v s).inv = s.inv := rfl
@[simp] theorem writeWholeSlot_params (i : Fin 10) (v : F32) (s : State) : (writeWholeSlot i v s).params = s.params := rfl
@[simp] theorem writeWholeSlot_snap (i : Fin 10) (v : F32) (s : State) : (writeWholeSlot i v s).snap = s.snap := rfl
@[simp] theorem writeWholeSlot_snapDone (i : Fin 10) (v : F32) (s : State) : (writeWholeSlot i v s).snapDone = s.snapDone := rfl
@[simp] theorem writeWholeSlot_tickPhase (i : Fin 10) (v : F32) (s : State) : (writeWholeSlot i v s).tickPhase = s.tickPhase := rfl
@[simp] theorem writeWholeSlot_tickPending (i : Fin 10) (v : F32) (s : State) : (writeWholeSlot i v s).tickPending = s.tickPending := rfl
@[simp] theorem writeWholeSlot_diagDutyOor (i : Fin 10) (v : F32) (s : State) : (writeWholeSlot i v s).diagDutyOor = s.diagDutyOor := rfl
@[simp] theorem writeWholeSlot_diagTicksSinceWrite (i : Fin 10) (v : F32) (s : State) : (writeWholeSlot i v s).diagTicksSinceWrite = 0#32 := rfl
@[simp] theorem writeWholeSlot_hostWrite (i : Fin 10) (v : F32) (s : State) : (writeWholeSlot i v s).hostWrite = s.hostWrite := rfl
@[simp] theorem writeWholeSlot_statusPort (i : Fin 10) (v : F32) (s : State) : (writeWholeSlot i v s).statusPort = s.statusPort := rfl
@[simp] theorem writeWholeSlot_trace (i : Fin 10) (v : F32) (s : State) : (writeWholeSlot i v s).trace = s.trace := rfl
@[simp] theorem writeWholeSlot_posePort (i : Fin 10) (v : F32) (s : State) : (writeWholeSlot i v s).posePort = s.posePort := rfl
@[simp] theorem writeWholeSlot_hostSplit (i : Fin 10) (v : F32) (s : State) : (writeWholeSlot i v s).hostSplit = s.hostSplit := rfl
@[simp] theorem writeWholeSlot_input (i : Fin 10) (v : F32) (s : State) : (writeWholeSlot i v s).input = s.input := rfl
@[simp] theorem writeWholeSlot_draws (i : Fin 10) (v : F32) (s : State) : (writeWholeSlot i v s).draws = s.draws := rfl

/-! `writeFirstHalf` -/

@[simp] theorem writeFirstHalf_slots (i : Fin 10) (v : F32) (h : Half) (s : State) : (writeFirstHalf i v h s).slots = Memory.writeHalf s.slots i h (halfOf v h) := rfl
@[simp] theorem writeFirstHalf_cursor (i : Fin 10) (v : F32) (h : Half) (s : State) : (writeFirstHalf i v h s).cursor = s.cursor := rfl
@[simp] theorem writeFirstHalf_cmp1 (i : Fin 10) (v : F32) (h : Half) (s : State) : (writeFirstHalf i v h s).cmp1 = s.cmp1 := rfl
@[simp] theorem writeFirstHalf_cmp2 (i : Fin 10) (v : F32) (h : Half) (s : State) : (writeFirstHalf i v h s).cmp2 = s.cmp2 := rfl
@[simp] theorem writeFirstHalf_cmp3 (i : Fin 10) (v : F32) (h : Half) (s : State) : (writeFirstHalf i v h s).cmp3 = s.cmp3 := rfl
@[simp] theorem writeFirstHalf_cmp4 (i : Fin 10) (v : F32) (h : Half) (s : State) : (writeFirstHalf i v h s).cmp4 = s.cmp4 := rfl
@[simp] theorem writeFirstHalf_inv (i : Fin 10) (v : F32) (h : Half) (s : State) : (writeFirstHalf i v h s).inv = s.inv := rfl
@[simp] theorem writeFirstHalf_params (i : Fin 10) (v : F32) (h : Half) (s : State) : (writeFirstHalf i v h s).params = s.params := rfl
@[simp] theorem writeFirstHalf_snap (i : Fin 10) (v : F32) (h : Half) (s : State) : (writeFirstHalf i v h s).snap = s.snap := rfl
@[simp] theorem writeFirstHalf_snapDone (i : Fin 10) (v : F32) (h : Half) (s : State) : (writeFirstHalf i v h s).snapDone = s.snapDone := rfl
@[simp] theorem writeFirstHalf_tickPhase (i : Fin 10) (v : F32) (h : Half) (s : State) : (writeFirstHalf i v h s).tickPhase = s.tickPhase := rfl
@[simp] theorem writeFirstHalf_tickPending (i : Fin 10) (v : F32) (h : Half) (s : State) : (writeFirstHalf i v h s).tickPending = s.tickPending := rfl
@[simp] theorem writeFirstHalf_diagDutyOor (i : Fin 10) (v : F32) (h : Half) (s : State) : (writeFirstHalf i v h s).diagDutyOor = s.diagDutyOor := rfl
@[simp] theorem writeFirstHalf_diagTicksSinceWrite (i : Fin 10) (v : F32) (h : Half) (s : State) : (writeFirstHalf i v h s).diagTicksSinceWrite = s.diagTicksSinceWrite := rfl
@[simp] theorem writeFirstHalf_hostWrite (i : Fin 10) (v : F32) (h : Half) (s : State) : (writeFirstHalf i v h s).hostWrite = some ⟨i, h.other, halfOf v h.other⟩ := rfl
@[simp] theorem writeFirstHalf_statusPort (i : Fin 10) (v : F32) (h : Half) (s : State) : (writeFirstHalf i v h s).statusPort = s.statusPort := rfl
@[simp] theorem writeFirstHalf_trace (i : Fin 10) (v : F32) (h : Half) (s : State) : (writeFirstHalf i v h s).trace = s.trace := rfl
@[simp] theorem writeFirstHalf_posePort (i : Fin 10) (v : F32) (h : Half) (s : State) : (writeFirstHalf i v h s).posePort = s.posePort := rfl
@[simp] theorem writeFirstHalf_hostSplit (i : Fin 10) (v : F32) (h : Half) (s : State) : (writeFirstHalf i v h s).hostSplit = s.hostSplit := rfl
@[simp] theorem writeFirstHalf_input (i : Fin 10) (v : F32) (h : Half) (s : State) : (writeFirstHalf i v h s).input = s.input := rfl
@[simp] theorem writeFirstHalf_draws (i : Fin 10) (v : F32) (h : Half) (s : State) : (writeFirstHalf i v h s).draws = s.draws := rfl

/-! `emit` -/

@[simp] theorem emit_slots (r : ObsRecord) (s : State) : (emit r s).slots = s.slots := rfl
@[simp] theorem emit_cursor (r : ObsRecord) (s : State) : (emit r s).cursor = s.cursor := rfl
@[simp] theorem emit_cmp1 (r : ObsRecord) (s : State) : (emit r s).cmp1 = s.cmp1 := rfl
@[simp] theorem emit_cmp2 (r : ObsRecord) (s : State) : (emit r s).cmp2 = s.cmp2 := rfl
@[simp] theorem emit_cmp3 (r : ObsRecord) (s : State) : (emit r s).cmp3 = s.cmp3 := rfl
@[simp] theorem emit_cmp4 (r : ObsRecord) (s : State) : (emit r s).cmp4 = s.cmp4 := rfl
@[simp] theorem emit_inv (r : ObsRecord) (s : State) : (emit r s).inv = s.inv := rfl
@[simp] theorem emit_params (r : ObsRecord) (s : State) : (emit r s).params = s.params := rfl
@[simp] theorem emit_snap (r : ObsRecord) (s : State) : (emit r s).snap = s.snap := rfl
@[simp] theorem emit_snapDone (r : ObsRecord) (s : State) : (emit r s).snapDone = s.snapDone := rfl
@[simp] theorem emit_tickPhase (r : ObsRecord) (s : State) : (emit r s).tickPhase = s.tickPhase := rfl
@[simp] theorem emit_tickPending (r : ObsRecord) (s : State) : (emit r s).tickPending = s.tickPending := rfl
@[simp] theorem emit_diagDutyOor (r : ObsRecord) (s : State) : (emit r s).diagDutyOor = s.diagDutyOor := rfl
@[simp] theorem emit_diagTicksSinceWrite (r : ObsRecord) (s : State) : (emit r s).diagTicksSinceWrite = s.diagTicksSinceWrite := rfl
@[simp] theorem emit_hostWrite (r : ObsRecord) (s : State) : (emit r s).hostWrite = s.hostWrite := rfl
@[simp] theorem emit_statusPort (r : ObsRecord) (s : State) : (emit r s).statusPort = s.statusPort := rfl
@[simp] theorem emit_trace (r : ObsRecord) (s : State) : (emit r s).trace = s.trace ++ [r] := rfl
@[simp] theorem emit_posePort (r : ObsRecord) (s : State) : (emit r s).posePort = s.posePort := rfl
@[simp] theorem emit_hostSplit (r : ObsRecord) (s : State) : (emit r s).hostSplit = s.hostSplit := rfl
@[simp] theorem emit_input (r : ObsRecord) (s : State) : (emit r s).input = s.input := rfl
@[simp] theorem emit_draws (r : ObsRecord) (s : State) : (emit r s).draws = s.draws := rfl

/-! `answerStatus` -/

@[simp] theorem answerStatus_slots (i : Fin 10) (s : State) : (answerStatus i s).slots = s.slots := rfl
@[simp] theorem answerStatus_cursor (i : Fin 10) (s : State) : (answerStatus i s).cursor = s.cursor := rfl
@[simp] theorem answerStatus_cmp1 (i : Fin 10) (s : State) : (answerStatus i s).cmp1 = s.cmp1 := rfl
@[simp] theorem answerStatus_cmp2 (i : Fin 10) (s : State) : (answerStatus i s).cmp2 = s.cmp2 := rfl
@[simp] theorem answerStatus_cmp3 (i : Fin 10) (s : State) : (answerStatus i s).cmp3 = s.cmp3 := rfl
@[simp] theorem answerStatus_cmp4 (i : Fin 10) (s : State) : (answerStatus i s).cmp4 = s.cmp4 := rfl
@[simp] theorem answerStatus_inv (i : Fin 10) (s : State) : (answerStatus i s).inv = s.inv := rfl
@[simp] theorem answerStatus_params (i : Fin 10) (s : State) : (answerStatus i s).params = s.params := rfl
@[simp] theorem answerStatus_snap (i : Fin 10) (s : State) : (answerStatus i s).snap = s.snap := rfl
@[simp] theorem answerStatus_snapDone (i : Fin 10) (s : State) : (answerStatus i s).snapDone = s.snapDone := rfl
@[simp] theorem answerStatus_tickPhase (i : Fin 10) (s : State) : (answerStatus i s).tickPhase = s.tickPhase := rfl
@[simp] theorem answerStatus_tickPending (i : Fin 10) (s : State) : (answerStatus i s).tickPending = s.tickPending := rfl
@[simp] theorem answerStatus_diagDutyOor (i : Fin 10) (s : State) : (answerStatus i s).diagDutyOor = s.diagDutyOor := rfl
@[simp] theorem answerStatus_diagTicksSinceWrite (i : Fin 10) (s : State) : (answerStatus i s).diagTicksSinceWrite = s.diagTicksSinceWrite := rfl
@[simp] theorem answerStatus_hostWrite (i : Fin 10) (s : State) : (answerStatus i s).hostWrite = s.hostWrite := rfl
@[simp] theorem answerStatus_statusPort (i : Fin 10) (s : State) : (answerStatus i s).statusPort = some (s.slot i) := rfl
@[simp] theorem answerStatus_trace (i : Fin 10) (s : State) : (answerStatus i s).trace = s.trace ++ [.status (s.slot i)] := rfl
@[simp] theorem answerStatus_posePort (i : Fin 10) (s : State) : (answerStatus i s).posePort = s.posePort := rfl
@[simp] theorem answerStatus_hostSplit (i : Fin 10) (s : State) : (answerStatus i s).hostSplit = s.hostSplit := rfl
@[simp] theorem answerStatus_input (i : Fin 10) (s : State) : (answerStatus i s).input = s.input := rfl
@[simp] theorem answerStatus_draws (i : Fin 10) (s : State) : (answerStatus i s).draws = s.draws := rfl

/-! `countTick` -/

@[simp] theorem countTick_slots (s : State) : (countTick s).slots = s.slots := rfl
@[simp] theorem countTick_cursor (s : State) : (countTick s).cursor = s.cursor := rfl
@[simp] theorem countTick_cmp1 (s : State) : (countTick s).cmp1 = s.cmp1 := rfl
@[simp] theorem countTick_cmp2 (s : State) : (countTick s).cmp2 = s.cmp2 := rfl
@[simp] theorem countTick_cmp3 (s : State) : (countTick s).cmp3 = s.cmp3 := rfl
@[simp] theorem countTick_cmp4 (s : State) : (countTick s).cmp4 = s.cmp4 := rfl
@[simp] theorem countTick_inv (s : State) : (countTick s).inv = s.inv := rfl
@[simp] theorem countTick_params (s : State) : (countTick s).params = s.params := rfl
@[simp] theorem countTick_snap (s : State) : (countTick s).snap = s.snap := rfl
@[simp] theorem countTick_snapDone (s : State) : (countTick s).snapDone = s.snapDone := rfl
@[simp] theorem countTick_tickPhase (s : State) : (countTick s).tickPhase = s.tickPhase := rfl
@[simp] theorem countTick_tickPending (s : State) : (countTick s).tickPending = s.tickPending := rfl
@[simp] theorem countTick_diagDutyOor (s : State) : (countTick s).diagDutyOor = s.diagDutyOor := rfl
@[simp] theorem countTick_diagTicksSinceWrite (s : State) : (countTick s).diagTicksSinceWrite = if s.diagTicksSinceWrite = 0xFFFFFFFF#32 then s.diagTicksSinceWrite else s.diagTicksSinceWrite + 1#32 := rfl
@[simp] theorem countTick_hostWrite (s : State) : (countTick s).hostWrite = s.hostWrite := rfl
@[simp] theorem countTick_statusPort (s : State) : (countTick s).statusPort = s.statusPort := rfl
@[simp] theorem countTick_trace (s : State) : (countTick s).trace = s.trace := rfl
@[simp] theorem countTick_posePort (s : State) : (countTick s).posePort = s.posePort := rfl
@[simp] theorem countTick_hostSplit (s : State) : (countTick s).hostSplit = s.hostSplit := rfl
@[simp] theorem countTick_input (s : State) : (countTick s).input = s.input := rfl
@[simp] theorem countTick_draws (s : State) : (countTick s).draws = s.draws := rfl

/-! `enterTick` -/

@[simp] theorem enterTick_slots (s : State) : (enterTick s).slots = s.slots := rfl
@[simp] theorem enterTick_cursor (s : State) : (enterTick s).cursor = s.cursor := rfl
@[simp] theorem enterTick_cmp1 (s : State) : (enterTick s).cmp1 = s.cmp1 := rfl
@[simp] theorem enterTick_cmp2 (s : State) : (enterTick s).cmp2 = s.cmp2 := rfl
@[simp] theorem enterTick_cmp3 (s : State) : (enterTick s).cmp3 = s.cmp3 := rfl
@[simp] theorem enterTick_cmp4 (s : State) : (enterTick s).cmp4 = s.cmp4 := rfl
@[simp] theorem enterTick_inv (s : State) : (enterTick s).inv = s.inv := rfl
@[simp] theorem enterTick_params (s : State) : (enterTick s).params = s.params := rfl
@[simp] theorem enterTick_snap (s : State) : (enterTick s).snap = s.snap := rfl
@[simp] theorem enterTick_snapDone (s : State) : (enterTick s).snapDone = 0#26 := rfl
@[simp] theorem enterTick_tickPhase (s : State) : (enterTick s).tickPhase = .sampling := rfl
@[simp] theorem enterTick_tickPending (s : State) : (enterTick s).tickPending = s.tickPending := rfl
@[simp] theorem enterTick_diagDutyOor (s : State) : (enterTick s).diagDutyOor = s.diagDutyOor := rfl
@[simp] theorem enterTick_diagTicksSinceWrite (s : State) : (enterTick s).diagTicksSinceWrite = s.diagTicksSinceWrite := rfl
@[simp] theorem enterTick_hostWrite (s : State) : (enterTick s).hostWrite = s.hostWrite := rfl
@[simp] theorem enterTick_statusPort (s : State) : (enterTick s).statusPort = s.statusPort := rfl
@[simp] theorem enterTick_trace (s : State) : (enterTick s).trace = s.trace := rfl
@[simp] theorem enterTick_posePort (s : State) : (enterTick s).posePort = s.posePort := rfl
@[simp] theorem enterTick_hostSplit (s : State) : (enterTick s).hostSplit = s.hostSplit := rfl
@[simp] theorem enterTick_input (s : State) : (enterTick s).input = s.input := rfl
@[simp] theorem enterTick_draws (s : State) : (enterTick s).draws = s.draws := rfl

/-! `sampleBit` -/

@[simp] theorem sampleBit_slots (k : Fin 26) (s : State) : (sampleBit k s).slots = s.slots := rfl
@[simp] theorem sampleBit_cursor (k : Fin 26) (s : State) : (sampleBit k s).cursor = s.cursor := rfl
@[simp] theorem sampleBit_cmp1 (k : Fin 26) (s : State) : (sampleBit k s).cmp1 = s.cmp1 := rfl
@[simp] theorem sampleBit_cmp2 (k : Fin 26) (s : State) : (sampleBit k s).cmp2 = s.cmp2 := rfl
@[simp] theorem sampleBit_cmp3 (k : Fin 26) (s : State) : (sampleBit k s).cmp3 = s.cmp3 := rfl
@[simp] theorem sampleBit_cmp4 (k : Fin 26) (s : State) : (sampleBit k s).cmp4 = s.cmp4 := rfl
@[simp] theorem sampleBit_inv (k : Fin 26) (s : State) : (sampleBit k s).inv = s.inv := rfl
@[simp] theorem sampleBit_params (k : Fin 26) (s : State) : (sampleBit k s).params = s.params := rfl
@[simp] theorem sampleBit_snap (k : Fin 26) (s : State) : (sampleBit k s).snap = s.snap.set k.val (readSampled k s) := rfl
@[simp] theorem sampleBit_snapDone (k : Fin 26) (s : State) : (sampleBit k s).snapDone = s.snapDone ||| BitVec.twoPow 26 k.val := rfl
@[simp] theorem sampleBit_tickPhase (k : Fin 26) (s : State) : (sampleBit k s).tickPhase = s.tickPhase := rfl
@[simp] theorem sampleBit_tickPending (k : Fin 26) (s : State) : (sampleBit k s).tickPending = s.tickPending := rfl
@[simp] theorem sampleBit_diagDutyOor (k : Fin 26) (s : State) : (sampleBit k s).diagDutyOor = s.diagDutyOor := rfl
@[simp] theorem sampleBit_diagTicksSinceWrite (k : Fin 26) (s : State) : (sampleBit k s).diagTicksSinceWrite = s.diagTicksSinceWrite := rfl
@[simp] theorem sampleBit_hostWrite (k : Fin 26) (s : State) : (sampleBit k s).hostWrite = s.hostWrite := rfl
@[simp] theorem sampleBit_statusPort (k : Fin 26) (s : State) : (sampleBit k s).statusPort = s.statusPort := rfl
@[simp] theorem sampleBit_trace (k : Fin 26) (s : State) : (sampleBit k s).trace = s.trace := rfl
@[simp] theorem sampleBit_posePort (k : Fin 26) (s : State) : (sampleBit k s).posePort = s.posePort := rfl
@[simp] theorem sampleBit_hostSplit (k : Fin 26) (s : State) : (sampleBit k s).hostSplit = s.hostSplit := rfl
@[simp] theorem sampleBit_input (k : Fin 26) (s : State) : (sampleBit k s).input = s.input := rfl
@[simp] theorem sampleBit_draws (k : Fin 26) (s : State) : (sampleBit k s).draws = drawsAfterSample k s := rfl

/-! `clearPort` -/

@[simp] theorem clearPort_slots (s : State) : (clearPort s).slots = s.slots := rfl
@[simp] theorem clearPort_cursor (s : State) : (clearPort s).cursor = s.cursor := rfl
@[simp] theorem clearPort_cmp1 (s : State) : (clearPort s).cmp1 = s.cmp1 := rfl
@[simp] theorem clearPort_cmp2 (s : State) : (clearPort s).cmp2 = s.cmp2 := rfl
@[simp] theorem clearPort_cmp3 (s : State) : (clearPort s).cmp3 = s.cmp3 := rfl
@[simp] theorem clearPort_cmp4 (s : State) : (clearPort s).cmp4 = s.cmp4 := rfl
@[simp] theorem clearPort_inv (s : State) : (clearPort s).inv = s.inv := rfl
@[simp] theorem clearPort_params (s : State) : (clearPort s).params = s.params := rfl
@[simp] theorem clearPort_snap (s : State) : (clearPort s).snap = s.snap := rfl
@[simp] theorem clearPort_snapDone (s : State) : (clearPort s).snapDone = s.snapDone := rfl
@[simp] theorem clearPort_tickPhase (s : State) : (clearPort s).tickPhase = s.tickPhase := rfl
@[simp] theorem clearPort_tickPending (s : State) : (clearPort s).tickPending = s.tickPending := rfl
@[simp] theorem clearPort_diagDutyOor (s : State) : (clearPort s).diagDutyOor = s.diagDutyOor := rfl
@[simp] theorem clearPort_diagTicksSinceWrite (s : State) : (clearPort s).diagTicksSinceWrite = s.diagTicksSinceWrite := rfl
@[simp] theorem clearPort_hostWrite (s : State) : (clearPort s).hostWrite = s.hostWrite := rfl
@[simp] theorem clearPort_statusPort (s : State) : (clearPort s).statusPort = none := rfl
@[simp] theorem clearPort_trace (s : State) : (clearPort s).trace = s.trace := rfl
@[simp] theorem clearPort_posePort (s : State) : (clearPort s).posePort = s.posePort := rfl
@[simp] theorem clearPort_hostSplit (s : State) : (clearPort s).hostSplit = s.hostSplit := rfl
@[simp] theorem clearPort_input (s : State) : (clearPort s).input = s.input := rfl
@[simp] theorem clearPort_draws (s : State) : (clearPort s).draws = s.draws := rfl

/-! `takeMove` -/

@[simp] theorem takeMove_slots (r : List Move) (s : State) : (takeMove r s).slots = s.slots := rfl
@[simp] theorem takeMove_cursor (r : List Move) (s : State) : (takeMove r s).cursor = s.cursor := rfl
@[simp] theorem takeMove_cmp1 (r : List Move) (s : State) : (takeMove r s).cmp1 = s.cmp1 := rfl
@[simp] theorem takeMove_cmp2 (r : List Move) (s : State) : (takeMove r s).cmp2 = s.cmp2 := rfl
@[simp] theorem takeMove_cmp3 (r : List Move) (s : State) : (takeMove r s).cmp3 = s.cmp3 := rfl
@[simp] theorem takeMove_cmp4 (r : List Move) (s : State) : (takeMove r s).cmp4 = s.cmp4 := rfl
@[simp] theorem takeMove_inv (r : List Move) (s : State) : (takeMove r s).inv = s.inv := rfl
@[simp] theorem takeMove_params (r : List Move) (s : State) : (takeMove r s).params = s.params := rfl
@[simp] theorem takeMove_snap (r : List Move) (s : State) : (takeMove r s).snap = s.snap := rfl
@[simp] theorem takeMove_snapDone (r : List Move) (s : State) : (takeMove r s).snapDone = s.snapDone := rfl
@[simp] theorem takeMove_tickPhase (r : List Move) (s : State) : (takeMove r s).tickPhase = s.tickPhase := rfl
@[simp] theorem takeMove_tickPending (r : List Move) (s : State) : (takeMove r s).tickPending = s.tickPending := rfl
@[simp] theorem takeMove_diagDutyOor (r : List Move) (s : State) : (takeMove r s).diagDutyOor = s.diagDutyOor := rfl
@[simp] theorem takeMove_diagTicksSinceWrite (r : List Move) (s : State) : (takeMove r s).diagTicksSinceWrite = s.diagTicksSinceWrite := rfl
@[simp] theorem takeMove_hostWrite (r : List Move) (s : State) : (takeMove r s).hostWrite = s.hostWrite := rfl
@[simp] theorem takeMove_statusPort (r : List Move) (s : State) : (takeMove r s).statusPort = none := rfl
@[simp] theorem takeMove_trace (r : List Move) (s : State) : (takeMove r s).trace = s.trace := rfl
@[simp] theorem takeMove_posePort (r : List Move) (s : State) : (takeMove r s).posePort = s.posePort := rfl
@[simp] theorem takeMove_hostSplit (r : List Move) (s : State) : (takeMove r s).hostSplit = s.hostSplit := rfl
@[simp] theorem takeMove_input (r : List Move) (s : State) : (takeMove r s).input = r := rfl
@[simp] theorem takeMove_draws (r : List Move) (s : State) : (takeMove r s).draws = s.draws := rfl

/-! `arrive` -/

@[simp] theorem arrive_slots (h : Option Half) (r : List Move) (s : State) : (arrive h r s).slots = s.slots := rfl
@[simp] theorem arrive_cursor (h : Option Half) (r : List Move) (s : State) : (arrive h r s).cursor = s.cursor := rfl
@[simp] theorem arrive_cmp1 (h : Option Half) (r : List Move) (s : State) : (arrive h r s).cmp1 = s.cmp1 := rfl
@[simp] theorem arrive_cmp2 (h : Option Half) (r : List Move) (s : State) : (arrive h r s).cmp2 = s.cmp2 := rfl
@[simp] theorem arrive_cmp3 (h : Option Half) (r : List Move) (s : State) : (arrive h r s).cmp3 = s.cmp3 := rfl
@[simp] theorem arrive_cmp4 (h : Option Half) (r : List Move) (s : State) : (arrive h r s).cmp4 = s.cmp4 := rfl
@[simp] theorem arrive_inv (h : Option Half) (r : List Move) (s : State) : (arrive h r s).inv = s.inv := rfl
@[simp] theorem arrive_params (h : Option Half) (r : List Move) (s : State) : (arrive h r s).params = s.params := rfl
@[simp] theorem arrive_snap (h : Option Half) (r : List Move) (s : State) : (arrive h r s).snap = s.snap := rfl
@[simp] theorem arrive_snapDone (h : Option Half) (r : List Move) (s : State) : (arrive h r s).snapDone = s.snapDone := rfl
@[simp] theorem arrive_tickPhase (h : Option Half) (r : List Move) (s : State) : (arrive h r s).tickPhase = s.tickPhase := rfl
@[simp] theorem arrive_tickPending (h : Option Half) (r : List Move) (s : State) : (arrive h r s).tickPending = s.tickPending := rfl
@[simp] theorem arrive_diagDutyOor (h : Option Half) (r : List Move) (s : State) : (arrive h r s).diagDutyOor = s.diagDutyOor := rfl
@[simp] theorem arrive_diagTicksSinceWrite (h : Option Half) (r : List Move) (s : State) : (arrive h r s).diagTicksSinceWrite = s.diagTicksSinceWrite := rfl
@[simp] theorem arrive_hostWrite (h : Option Half) (r : List Move) (s : State) : (arrive h r s).hostWrite = s.hostWrite := rfl
@[simp] theorem arrive_statusPort (h : Option Half) (r : List Move) (s : State) : (arrive h r s).statusPort = none := rfl
@[simp] theorem arrive_trace (h : Option Half) (r : List Move) (s : State) : (arrive h r s).trace = s.trace := rfl
@[simp] theorem arrive_posePort (h : Option Half) (r : List Move) (s : State) : (arrive h r s).posePort = s.posePort := rfl
@[simp] theorem arrive_hostSplit (h : Option Half) (r : List Move) (s : State) : (arrive h r s).hostSplit = h := rfl
@[simp] theorem arrive_input (h : Option Half) (r : List Move) (s : State) : (arrive h r s).input = r := rfl
@[simp] theorem arrive_draws (h : Option Half) (r : List Move) (s : State) : (arrive h r s).draws = s.draws := rfl

/-! `resetBlock` -/

@[simp] theorem resetBlock_slots (s : State) : (resetBlock s).slots = State.reset.slots := rfl
@[simp] theorem resetBlock_cursor (s : State) : (resetBlock s).cursor = State.reset.cursor := rfl
@[simp] theorem resetBlock_cmp1 (s : State) : (resetBlock s).cmp1 = State.reset.cmp1 := rfl
@[simp] theorem resetBlock_cmp2 (s : State) : (resetBlock s).cmp2 = State.reset.cmp2 := rfl
@[simp] theorem resetBlock_cmp3 (s : State) : (resetBlock s).cmp3 = State.reset.cmp3 := rfl
@[simp] theorem resetBlock_cmp4 (s : State) : (resetBlock s).cmp4 = State.reset.cmp4 := rfl
@[simp] theorem resetBlock_inv (s : State) : (resetBlock s).inv = s.inv := rfl
@[simp] theorem resetBlock_params (s : State) : (resetBlock s).params = s.params := rfl
@[simp] theorem resetBlock_snap (s : State) : (resetBlock s).snap = State.reset.snap := rfl
@[simp] theorem resetBlock_snapDone (s : State) : (resetBlock s).snapDone = State.reset.snapDone := rfl
@[simp] theorem resetBlock_tickPhase (s : State) : (resetBlock s).tickPhase = State.reset.tickPhase := rfl
@[simp] theorem resetBlock_tickPending (s : State) : (resetBlock s).tickPending = State.reset.tickPending := rfl
@[simp] theorem resetBlock_diagDutyOor (s : State) : (resetBlock s).diagDutyOor = State.reset.diagDutyOor := rfl
@[simp] theorem resetBlock_diagTicksSinceWrite (s : State) : (resetBlock s).diagTicksSinceWrite = State.reset.diagTicksSinceWrite := rfl
@[simp] theorem resetBlock_hostWrite (s : State) : (resetBlock s).hostWrite = State.reset.hostWrite := rfl
@[simp] theorem resetBlock_statusPort (s : State) : (resetBlock s).statusPort = s.statusPort := rfl
@[simp] theorem resetBlock_trace (s : State) : (resetBlock s).trace = s.trace := rfl
@[simp] theorem resetBlock_posePort (s : State) : (resetBlock s).posePort = s.posePort := rfl
@[simp] theorem resetBlock_hostSplit (s : State) : (resetBlock s).hostSplit = s.hostSplit := rfl
@[simp] theorem resetBlock_input (s : State) : (resetBlock s).input = s.input := rfl
@[simp] theorem resetBlock_draws (s : State) : (resetBlock s).draws = s.draws := rfl

/-! `setCmp` (the registers themselves: `cmp_setCmp`) -/

@[simp] theorem setCmp_slots (c : Channel) (n : U16) (s : State) : (s.setCmp c n).slots = s.slots := by cases c <;> rfl
@[simp] theorem setCmp_cursor (c : Channel) (n : U16) (s : State) : (s.setCmp c n).cursor = s.cursor := by cases c <;> rfl
@[simp] theorem setCmp_inv (c : Channel) (n : U16) (s : State) : (s.setCmp c n).inv = s.inv := by cases c <;> rfl
@[simp] theorem setCmp_params (c : Channel) (n : U16) (s : State) : (s.setCmp c n).params = s.params := by cases c <;> rfl
@[simp] theorem setCmp_snap (c : Channel) (n : U16) (s : State) : (s.setCmp c n).snap = s.snap := by cases c <;> rfl
@[simp] theorem setCmp_snapDone (c : Channel) (n : U16) (s : State) : (s.setCmp c n).snapDone = s.snapDone := by cases c <;> rfl
@[simp] theorem setCmp_tickPhase (c : Channel) (n : U16) (s : State) : (s.setCmp c n).tickPhase = s.tickPhase := by cases c <;> rfl
@[simp] theorem setCmp_tickPending (c : Channel) (n : U16) (s : State) : (s.setCmp c n).tickPending = s.tickPending := by cases c <;> rfl
@[simp] theorem setCmp_diagDutyOor (c : Channel) (n : U16) (s : State) : (s.setCmp c n).diagDutyOor = s.diagDutyOor := by cases c <;> rfl
@[simp] theorem setCmp_diagTicksSinceWrite (c : Channel) (n : U16) (s : State) : (s.setCmp c n).diagTicksSinceWrite = s.diagTicksSinceWrite := by cases c <;> rfl
@[simp] theorem setCmp_hostWrite (c : Channel) (n : U16) (s : State) : (s.setCmp c n).hostWrite = s.hostWrite := by cases c <;> rfl
@[simp] theorem setCmp_statusPort (c : Channel) (n : U16) (s : State) : (s.setCmp c n).statusPort = s.statusPort := by cases c <;> rfl
@[simp] theorem setCmp_trace (c : Channel) (n : U16) (s : State) : (s.setCmp c n).trace = s.trace := by cases c <;> rfl
@[simp] theorem setCmp_posePort (c : Channel) (n : U16) (s : State) : (s.setCmp c n).posePort = s.posePort := by cases c <;> rfl
@[simp] theorem setCmp_hostSplit (c : Channel) (n : U16) (s : State) : (s.setCmp c n).hostSplit = s.hostSplit := by cases c <;> rfl
@[simp] theorem setCmp_input (c : Channel) (n : U16) (s : State) : (s.setCmp c n).input = s.input := by cases c <;> rfl
@[simp] theorem setCmp_draws (c : Channel) (n : U16) (s : State) : (s.setCmp c n).draws = s.draws := by cases c <;> rfl

/-! `driveChannel` (registers, counter and draws: Laws/Ops.lean) -/

@[simp] theorem driveChannel_slots (c : Channel) (p : F32) (s : State) : (driveChannel c p s).slots = s.slots := by
  unfold driveChannel; split <;> simp
@[simp] theorem driveChannel_cursor (c : Channel) (p : F32) (s : State) : (driveChannel c p s).cursor = s.cursor := by
  unfold driveChannel; split <;> simp
@[simp] theorem driveChannel_inv (c : Channel) (p : F32) (s : State) : (driveChannel c p s).inv = s.inv := by
  unfold driveChannel; split <;> simp
@[simp] theorem driveChannel_params (c : Channel) (p : F32) (s : State) : (driveChannel c p s).params = s.params := by
  unfold driveChannel; split <;> simp
@[simp] theorem driveChannel_snap (c : Channel) (p : F32) (s : State) : (driveChannel c p s).snap = s.snap := by
  unfold driveChannel; split <;> simp
@[simp] theorem driveChannel_snapDone (c : Channel) (p : F32) (s : State) : (driveChannel c p s).snapDone = s.snapDone := by
  unfold driveChannel; split <;> simp
@[simp] theorem driveChannel_tickPhase (c : Channel) (p : F32) (s : State) : (driveChannel c p s).tickPhase = s.tickPhase := by
  unfold driveChannel; split <;> simp
@[simp] theorem driveChannel_tickPending (c : Channel) (p : F32) (s : State) : (driveChannel c p s).tickPending = s.tickPending := by
  unfold driveChannel; split <;> simp
@[simp] theorem driveChannel_diagTicksSinceWrite (c : Channel) (p : F32) (s : State) : (driveChannel c p s).diagTicksSinceWrite = s.diagTicksSinceWrite := by
  unfold driveChannel; split <;> simp
@[simp] theorem driveChannel_hostWrite (c : Channel) (p : F32) (s : State) : (driveChannel c p s).hostWrite = s.hostWrite := by
  unfold driveChannel; split <;> simp
@[simp] theorem driveChannel_statusPort (c : Channel) (p : F32) (s : State) : (driveChannel c p s).statusPort = s.statusPort := by
  unfold driveChannel; split <;> simp
@[simp] theorem driveChannel_trace (c : Channel) (p : F32) (s : State) : (driveChannel c p s).trace = s.trace := by
  unfold driveChannel; split <;> simp
@[simp] theorem driveChannel_posePort (c : Channel) (p : F32) (s : State) : (driveChannel c p s).posePort = s.posePort := by
  unfold driveChannel; split <;> simp
@[simp] theorem driveChannel_hostSplit (c : Channel) (p : F32) (s : State) : (driveChannel c p s).hostSplit = s.hostSplit := by
  unfold driveChannel; split <;> simp
@[simp] theorem driveChannel_input (c : Channel) (p : F32) (s : State) : (driveChannel c p s).input = s.input := by
  unfold driveChannel; split <;> simp

/-! `leaveTick` -/

@[simp] theorem leaveTick_slots (s : State) : (leaveTick s).slots = s.slots := by
  unfold leaveTick; split <;> simp_all
@[simp] theorem leaveTick_cursor (s : State) : (leaveTick s).cursor = s.cursor := by
  unfold leaveTick; split <;> simp_all
@[simp] theorem leaveTick_cmp1 (s : State) : (leaveTick s).cmp1 = s.cmp1 := by
  unfold leaveTick; split <;> simp_all
@[simp] theorem leaveTick_cmp2 (s : State) : (leaveTick s).cmp2 = s.cmp2 := by
  unfold leaveTick; split <;> simp_all
@[simp] theorem leaveTick_cmp3 (s : State) : (leaveTick s).cmp3 = s.cmp3 := by
  unfold leaveTick; split <;> simp_all
@[simp] theorem leaveTick_cmp4 (s : State) : (leaveTick s).cmp4 = s.cmp4 := by
  unfold leaveTick; split <;> simp_all
@[simp] theorem leaveTick_inv (s : State) : (leaveTick s).inv = s.inv := by
  unfold leaveTick; split <;> simp_all
@[simp] theorem leaveTick_params (s : State) : (leaveTick s).params = s.params := by
  unfold leaveTick; split <;> simp_all
@[simp] theorem leaveTick_snap (s : State) : (leaveTick s).snap = s.snap := by
  unfold leaveTick; split <;> simp_all
@[simp] theorem leaveTick_snapDone (s : State) : (leaveTick s).snapDone = if s.tickPending then 0#26 else s.snapDone := by
  unfold leaveTick; split <;> simp_all
@[simp] theorem leaveTick_tickPhase (s : State) : (leaveTick s).tickPhase = if s.tickPending then .sampling else .idle := by
  unfold leaveTick; split <;> simp_all
@[simp] theorem leaveTick_tickPending (s : State) : (leaveTick s).tickPending = false := by
  unfold leaveTick; split <;> simp_all
@[simp] theorem leaveTick_diagDutyOor (s : State) : (leaveTick s).diagDutyOor = s.diagDutyOor := by
  unfold leaveTick; split <;> simp_all
@[simp] theorem leaveTick_diagTicksSinceWrite (s : State) : (leaveTick s).diagTicksSinceWrite = s.diagTicksSinceWrite := by
  unfold leaveTick; split <;> simp_all
@[simp] theorem leaveTick_hostWrite (s : State) : (leaveTick s).hostWrite = s.hostWrite := by
  unfold leaveTick; split <;> simp_all
@[simp] theorem leaveTick_statusPort (s : State) : (leaveTick s).statusPort = s.statusPort := by
  unfold leaveTick; split <;> simp_all
@[simp] theorem leaveTick_trace (s : State) : (leaveTick s).trace = s.trace := by
  unfold leaveTick; split <;> simp_all
@[simp] theorem leaveTick_posePort (s : State) : (leaveTick s).posePort = s.posePort := by
  unfold leaveTick; split <;> simp_all
@[simp] theorem leaveTick_hostSplit (s : State) : (leaveTick s).hostSplit = s.hostSplit := by
  unfold leaveTick; split <;> simp_all
@[simp] theorem leaveTick_input (s : State) : (leaveTick s).input = s.input := by
  unfold leaveTick; split <;> simp_all
@[simp] theorem leaveTick_draws (s : State) : (leaveTick s).draws = s.draws := by
  unfold leaveTick; split <;> simp_all

/-! `finishHostWrite` (slots, cursor and counter: Laws/Ops.lean) -/

@[simp] theorem finishHostWrite_cmp1 (s : State) : (finishHostWrite s).cmp1 = s.cmp1 := by
  unfold finishHostWrite; split <;> simp_all
@[simp] theorem finishHostWrite_cmp2 (s : State) : (finishHostWrite s).cmp2 = s.cmp2 := by
  unfold finishHostWrite; split <;> simp_all
@[simp] theorem finishHostWrite_cmp3 (s : State) : (finishHostWrite s).cmp3 = s.cmp3 := by
  unfold finishHostWrite; split <;> simp_all
@[simp] theorem finishHostWrite_cmp4 (s : State) : (finishHostWrite s).cmp4 = s.cmp4 := by
  unfold finishHostWrite; split <;> simp_all
@[simp] theorem finishHostWrite_inv (s : State) : (finishHostWrite s).inv = s.inv := by
  unfold finishHostWrite; split <;> simp_all
@[simp] theorem finishHostWrite_params (s : State) : (finishHostWrite s).params = s.params := by
  unfold finishHostWrite; split <;> simp_all
@[simp] theorem finishHostWrite_snap (s : State) : (finishHostWrite s).snap = s.snap := by
  unfold finishHostWrite; split <;> simp_all
@[simp] theorem finishHostWrite_snapDone (s : State) : (finishHostWrite s).snapDone = s.snapDone := by
  unfold finishHostWrite; split <;> simp_all
@[simp] theorem finishHostWrite_tickPhase (s : State) : (finishHostWrite s).tickPhase = s.tickPhase := by
  unfold finishHostWrite; split <;> simp_all
@[simp] theorem finishHostWrite_tickPending (s : State) : (finishHostWrite s).tickPending = s.tickPending := by
  unfold finishHostWrite; split <;> simp_all
@[simp] theorem finishHostWrite_diagDutyOor (s : State) : (finishHostWrite s).diagDutyOor = s.diagDutyOor := by
  unfold finishHostWrite; split <;> simp_all
@[simp] theorem finishHostWrite_hostWrite (s : State) : (finishHostWrite s).hostWrite = none := by
  unfold finishHostWrite; split <;> simp_all
@[simp] theorem finishHostWrite_statusPort (s : State) : (finishHostWrite s).statusPort = s.statusPort := by
  unfold finishHostWrite; split <;> simp_all
@[simp] theorem finishHostWrite_trace (s : State) : (finishHostWrite s).trace = s.trace := by
  unfold finishHostWrite; split <;> simp_all
@[simp] theorem finishHostWrite_posePort (s : State) : (finishHostWrite s).posePort = s.posePort := by
  unfold finishHostWrite; split <;> simp_all
@[simp] theorem finishHostWrite_hostSplit (s : State) : (finishHostWrite s).hostSplit = s.hostSplit := by
  unfold finishHostWrite; split <;> simp_all
@[simp] theorem finishHostWrite_input (s : State) : (finishHostWrite s).input = s.input := by
  unfold finishHostWrite; split <;> simp_all
@[simp] theorem finishHostWrite_draws (s : State) : (finishHostWrite s).draws = s.draws := by
  unfold finishHostWrite; split <;> simp_all

end Sys2Proof.Machine
end

