-- ==== Sys2Proof/Laws/Ops.lean ====
section
/-! SUPPORT. One lemma for each case of a shared operation: everything it can do, said once. -/

namespace Sys2Proof.Machine

set_option Elab.async false

open Sys2Proof.Config

/-- SET_SLOT that the schedule does not split. -/
theorem setSlot_whole (i : Fin 10) (v : F32) (s : State) (h : s.hostSplit = none ∨ s.params.tearBits = .b32) :
    setSlot i v s = writeWholeSlot i v s := by
  unfold setSlot
  rcases h with h | h
  · rw [h]; cases s.params.tearBits <;> rfl
  · rw [h]

/-- SET_SLOT that the schedule splits, half `h` first. -/
theorem setSlot_split (i : Fin 10) (v : F32) (h : Half) (s : State) (ht : s.params.tearBits = .b16)
    (hs : s.hostSplit = some h) : setSlot i v s = writeFirstHalf i v h s := by
  simp [setSlot, ht, hs]

/-- The two cases of SET_SLOT. -/
theorem setSlot_cases (i : Fin 10) (v : F32) (s : State) :
    setSlot i v s = writeWholeSlot i v s ∨
      ∃ h, s.params.tearBits = .b16 ∧ s.hostSplit = some h ∧ setSlot i v s = writeFirstHalf i v h s := by
  cases ht : s.params.tearBits
  · cases hs : s.hostSplit
    · exact .inl (setSlot_whole i v s (.inl hs))
    · exact .inr ⟨_, rfl, rfl, setSlot_split i v _ s ht hs⟩
  · exact .inl (setSlot_whole i v s (.inr ht))

theorem finishHostWrite_none (s : State) (h : s.hostWrite = none) : finishHostWrite s = s := by
  simp [finishHostWrite, h]

theorem finishHostWrite_some (s : State) (w : HostWrite) (h : s.hostWrite = some w) :
    finishHostWrite s =
      noteSlotWritten w.slot { s with slots := Memory.writeHalf s.slots w.slot w.half w.bits, hostWrite := none } := by
  simp [finishHostWrite, h]

/-- The mapper's write of a duty in range. -/
theorem driveChannel_in (c : Channel) (p : F32) (s : State) (h : dutyOutOfRange s.params.fp p = false) :
    driveChannel c p s = s.setCmp c (compareOf s.params.fp p) := by
  simp [driveChannel, h]

/-- The mapper's write of a duty out of range: a free count, one draw, one up in the counter. -/
theorem driveChannel_out (c : Channel) (p : F32) (s : State) (h : dutyOutOfRange s.params.fp p = true) :
    driveChannel c p s =
      { s.setCmp c (freeCompare s.draws) with draws := s.draws + 1, diagDutyOor := s.diagDutyOor + 1#32 } := by
  simp [driveChannel, h]

/-- The mapper's write leaves the other channels. -/
theorem cmp_driveChannel_other (c d : Channel) (p : F32) (s : State) (h : d ≠ c) :
    (driveChannel c p s).cmp d = s.cmp d := by
  unfold driveChannel
  split
  · cases c <;> cases d <;> first | rfl | exact absurd rfl h
  · simp [h]

/-- The mapper's write of a duty in range, at its own channel. -/
theorem cmp_driveChannel_in (c : Channel) (p : F32) (s : State) (h : dutyOutOfRange s.params.fp p = false) :
    (driveChannel c p s).cmp c = compareOf s.params.fp p := by
  simp [driveChannel_in c p s h]

/-- DIAG_DUTY_OOR counts the duties out of range. -/
theorem driveChannel_diagDutyOor (c : Channel) (p : F32) (s : State) :
    (driveChannel c p s).diagDutyOor = s.diagDutyOor + (if dutyOutOfRange s.params.fp p then 1#32 else 0#32) := by
  unfold driveChannel
  split <;> simp_all

theorem leaveTick_idle (s : State) (h : s.tickPending = false) : leaveTick s = { s with tickPhase := .idle } := by
  simp [leaveTick, h]

theorem leaveTick_pending (s : State) (h : s.tickPending = true) :
    leaveTick s = enterTick { s with tickPending := false } := by
  simp [leaveTick, h]

theorem sampleStep_b16 (k : Fin 26) (s : State) (h : s.params.tearBits = .b16) : sampleStep k s = sampleBit k s := by
  simp [sampleStep, h]

theorem sampleStep_b32 (k : Fin 26) (s : State) (h : s.params.tearBits = .b32) :
    sampleStep k s = sampleBit (hiBit k) (sampleBit (loBit k) s) := by
  simp [sampleStep, h]

/-- A sampling step sets its bit and no other, keeping those set. -/
@[simp] theorem snapDone_sampleBit (k : Fin 26) (s : State) (j : Nat) (hj : j < 26) :
    (sampleBit k s).snapDone.getLsbD j = (decide (k.val = j) || s.snapDone.getLsbD j) := by
  simp only [sampleBit_snapDone, BitVec.getLsbD_or, BitVec.getLsbD_twoPow]
  rw [Bool.or_comm]
  by_cases h : k.val = j <;> simp [h, hj]

/-- A sampled half holds what was read, and every other half as before. -/
@[simp] theorem snap_sampleBit (k : Fin 26) (s : State) (j : Nat) (hj : j < 26) :
    (sampleBit k s).snap[j] = if k.val = j then readSampled k s else s.snap[j] := by
  simp [sampleBit_snap, Vector.getElem_set]

/-- What is read for a half of a slot is that half as last written (20_memory.md R59). -/
theorem readSampled_slot (k : Fin 26) (s : State) (h : k.val / 2 < 10) :
    readSampled k s = Memory.readHalf s.slots ⟨k.val / 2, h⟩ (sampleHalf k) := by
  simp [readSampled, h]

/-- What is read for a half of a driven pose. -/
theorem readSampled_pose (k : Fin 26) (s : State) (p : Pose) (h : ¬ k.val / 2 < 10) (hp : s.posePort = some p) :
    readSampled k s = halfOf (p.component (k.val / 2 - 10)) (sampleHalf k) := by
  simp [readSampled, h, hp]

/-- A sampling step the schedule picks while it is enabled. -/
theorem trySample_enabled (k : Fin 26) (s : State) (hp : s.tickPhase = .sampling) (hb : s.snapDone.getLsbD k.val = false) :
    trySample k s = sampleStep k s := by
  simp only [trySample, hp, hb]
  rfl

/-- A sampling step whose bit is set already changes nothing (log entry 3). -/
theorem trySample_done (k : Fin 26) (s : State) (hb : s.snapDone.getLsbD k.val = true) : trySample k s = s := by
  simp only [trySample, hb, Bool.not_true, Bool.and_false, Bool.false_eq_true, if_false]

/-- The compute step the schedule picks while it is enabled. -/
theorem tryCompute_enabled (s : State) (hp : s.tickPhase = .sampling) (hd : s.snapDone = BitVec.allOnes 26) :
    tryCompute s = compute s := by
  unfold tryCompute
  rw [if_pos]
  simp only [State.allSampled, Bool.and_eq_true, decide_eq_true_eq]
  exact ⟨hp, hd⟩

theorem sampleStep_frame (k : Fin 26) (s : State) :
    sampleStep k s =
      { s with snap := (sampleStep k s).snap, snapDone := (sampleStep k s).snapDone, draws := (sampleStep k s).draws } := by
  unfold sampleStep
  split <;> rfl

theorem driveChannel_frame (c : Channel) (p : F32) (s : State) :
    driveChannel c p s =
      { s with cmp1 := (driveChannel c p s).cmp1, cmp2 := (driveChannel c p s).cmp2, cmp3 := (driveChannel c p s).cmp3
               cmp4 := (driveChannel c p s).cmp4, diagDutyOor := (driveChannel c p s).diagDutyOor
               draws := (driveChannel c p s).draws } := by
  unfold driveChannel
  split <;> cases c <;> rfl

end Sys2Proof.Machine
end

