-- ==== Sys2Proof/Laws/PerInstr.lean ====
section
/-! SUPPORT. Statements made for each event as syntax. -/

namespace Sys2Proof.Laws.WordLength

set_option Elab.async false

/-- The encoded word of an event has the length its group tells (30_encoding.md R72). -/
def Statement (i : Instr) : Prop := i.wellFormed = true → (encode i).length = wordLength i.code

/-- One code byte and four bytes for each operand. -/
theorem encode_length (i : Instr) : (encode i).length = 1 + 4 * i.operands.length := by
  simp [encode, List.length_flatMap, bytesOfOperand]
  omega

theorem setV (v : F32) : Statement (.setV v) := fun _ => by simp [encode_length, Instr.operands, Instr.code, wordLength]
theorem setW (w : F32) : Statement (.setW w) := fun _ => by simp [encode_length, Instr.operands, Instr.code, wordLength]
theorem setL (l : F32) : Statement (.setL l) := fun _ => by simp [encode_length, Instr.operands, Instr.code, wordLength]
theorem setR (r : F32) : Statement (.setR r) := fun _ => by simp [encode_length, Instr.operands, Instr.code, wordLength]
theorem setGrip (m : F32) : Statement (.setGrip m) := fun _ => by simp [encode_length, Instr.operands, Instr.code, wordLength]
theorem setHe (e : F32) : Statement (.setHe e) := fun _ => by simp [encode_length, Instr.operands, Instr.code, wordLength]
theorem setTe (t : F32) : Statement (.setTe t) := fun _ => by simp [encode_length, Instr.operands, Instr.code, wordLength]
theorem setGx (x : F32) : Statement (.setGx x) := fun _ => by simp [encode_length, Instr.operands, Instr.code, wordLength]
theorem setGy (y : F32) : Statement (.setGy y) := fun _ => by simp [encode_length, Instr.operands, Instr.code, wordLength]
theorem setGth (th : F32) : Statement (.setGth th) := fun _ => by simp [encode_length, Instr.operands, Instr.code, wordLength]
theorem getStatus0 : Statement .getStatus0 := fun _ => by simp [encode_length, Instr.operands, Instr.code, wordLength]
theorem getStatus1 : Statement .getStatus1 := fun _ => by simp [encode_length, Instr.operands, Instr.code, wordLength]
theorem getStatus2 : Statement .getStatus2 := fun _ => by simp [encode_length, Instr.operands, Instr.code, wordLength]
theorem getStatus3 : Statement .getStatus3 := fun _ => by simp [encode_length, Instr.operands, Instr.code, wordLength]
theorem setDuty1 (p : F32) : Statement (.setDuty1 p) := fun _ => by simp [encode_length, Instr.operands, Instr.code, wordLength]
theorem setDuty2 (p : F32) : Statement (.setDuty2 p) := fun _ => by simp [encode_length, Instr.operands, Instr.code, wordLength]
theorem setDuty3 (p : F32) : Statement (.setDuty3 p) := fun _ => by simp [encode_length, Instr.operands, Instr.code, wordLength]
theorem setDuty4 (p : F32) : Statement (.setDuty4 p) := fun _ => by simp [encode_length, Instr.operands, Instr.code, wordLength]
theorem ikGoal (xs ys ths xg yg thg : F32) : Statement (.ikGoal xs ys ths xg yg thg) := fun _ => by simp [encode_length, Instr.operands, Instr.code, wordLength]
theorem tick1ms : Statement .tick1ms := fun _ => by simp [encode_length, Instr.operands, Instr.code, wordLength]
theorem tick10ms : Statement .tick10ms := fun _ => by simp [encode_length, Instr.operands, Instr.code, wordLength]
theorem tick50ms : Statement .tick50ms := fun _ => by simp [encode_length, Instr.operands, Instr.code, wordLength]
theorem reset : Statement .reset := fun _ => by simp [encode_length, Instr.operands, Instr.code, wordLength]

/-- The group a code between two bounds of one group belongs to. -/
theorem group_eq (code : Byte) (g : Nat) (lo : 16 * g ≤ code.toNat) (hi : code.toNat < 16 * g + 16) : code.toNat / 16 = g := by
  omega

theorem unknown0A (code : Byte) (a : F32) : Statement (.unknown0A code a) := by
  intro h
  simp only [Instr.wellFormed, decide_eq_true_eq] at h
  simp [encode_length, Instr.operands, Instr.code, wordLength, group_eq code 0 (by omega) (by omega)]

theorem unknown0C (code : Byte) (a : F32) : Statement (.unknown0C code a) := by
  intro h
  simp only [Instr.wellFormed, decide_eq_true_eq] at h
  simp [encode_length, Instr.operands, Instr.code, wordLength, group_eq code 0 (by omega) (by omega)]

theorem unknown14 (code : Byte) : Statement (.unknown14 code) := by
  intro h
  simp only [Instr.wellFormed, decide_eq_true_eq] at h
  simp [encode_length, Instr.operands, Instr.code, wordLength, group_eq code 1 (by omega) (by omega)]

theorem unknown18 (code : Byte) : Statement (.unknown18 code) := by
  intro h
  simp only [Instr.wellFormed, decide_eq_true_eq] at h
  simp [encode_length, Instr.operands, Instr.code, wordLength, group_eq code 1 (by omega) (by omega)]

end Sys2Proof.Laws.WordLength
end

