-- ==== Sys2Proof/Laws/Step.lean ====
section
/-! SUPPORT. Everything a step can do, and everything an event can do, said once. -/

namespace Sys2Proof.Machine

set_option Elab.async false

open Sys2Proof.Config

/-- The cases of a step that goes on. -/
theorem step_cases (s t : State) (h : step s = .next t) :
    (s.input = [] ∧ t = tickAgent (clearPort s)) ∨
    (∃ split word rest i, s.input = .event split word :: rest ∧ decode word = .ok i ∧
      ((hostMustFinish i s = true ∧ t = finishHostWrite (clearPort s)) ∨
        (hostMustFinish i s = false ∧ exec i (arrive split rest s) = .next t))) ∨
    (∃ m rest, s.input = m :: rest ∧ (∀ split word, m ≠ .event split word) ∧
      t = agentMove m (takeMove rest s)) := by
  unfold step at h
  split at h
  next hi => exact .inl ⟨hi, (Host.Outcome.next.inj h).symm⟩
  next split word rest hi =>
    split at h
    · cases h
    next i hd =>
      refine .inr (.inl ⟨split, word, rest, i, hi, hd, ?_⟩)
      split at h
      next hm => exact .inl ⟨hm, (Host.Outcome.next.inj h).symm⟩
      next hm => exact .inr ⟨by simpa using hm, h⟩
  next m rest hm hi => exact .inr (.inr ⟨m, rest, hi, fun sp w he => hm sp w he, (Host.Outcome.next.inj h).symm⟩)

/-- A run that begins with a step that goes on. -/
theorem stepN_of_step (n : Nat) (s t : State) (h : step s = .next t) : stepN (n + 1) s = stepN n t := by
  simp [stepN, h]

/-- A run that begins with a refused step. -/
theorem stepN_of_refused (n : Nat) (s : State) (r : Refusal) (h : step s = .refused r) :
    stepN (n + 1) s = .refused r := by
  simp [stepN, h]

/-- A run in two parts. -/
theorem stepN_add (n k : Nat) (s t : State) (h : stepN n s = .next t) : stepN (n + k) s = stepN k t := by
  induction n generalizing s with
  | zero =>
    cases h
    rw [Nat.zero_add]
  | succ n ih =>
    rw [Nat.add_right_comm]
    simp only [stepN] at h ⊢
    split at h <;> simp_all

/-- A step with the schedule used up. -/
theorem step_nil (s : State) (h : s.input = []) : step s = .next (tickAgent (clearPort s)) := by
  unfold step
  rw [h]

/-- A step that is a move of an agent. -/
theorem step_agentMove (s : State) (m : Move) (rest : List Move) (h : s.input = m :: rest)
    (hm : ∀ split word, m ≠ .event split word) : step s = .next (agentMove m (takeMove rest s)) := by
  unfold step
  rw [h]
  cases m <;> first | rfl | exact absurd rfl (hm _ _)

/-- Every event as one of seven kinds. -/
theorem instr_kinds (i : Instr) :
    (∃ j v, i = slotEvent j v) ∨ (∃ k, i = statusEvent k) ∨ (∃ c p, i = dutyEvent c p) ∨
    (∃ xs ys ths xg yg thg, i = .ikGoal xs ys ths xg yg thg) ∨ i = .tick1ms ∨ i = .reset ∨
    (∀ s, exec i s = .next s) := by
  cases i with
  | setV v => exact .inl ⟨0, v, rfl⟩
  | setW v => exact .inl ⟨1, v, rfl⟩
  | setL v => exact .inl ⟨2, v, rfl⟩
  | setR v => exact .inl ⟨3, v, rfl⟩
  | setGrip v => exact .inl ⟨4, v, rfl⟩
  | setHe v => exact .inl ⟨5, v, rfl⟩
  | setTe v => exact .inl ⟨6, v, rfl⟩
  | setGx v => exact .inl ⟨7, v, rfl⟩
  | setGy v => exact .inl ⟨8, v, rfl⟩
  | setGth v => exact .inl ⟨9, v, rfl⟩
  | getStatus0 => exact .inr (.inl ⟨0, rfl⟩)
  | getStatus1 => exact .inr (.inl ⟨1, rfl⟩)
  | getStatus2 => exact .inr (.inl ⟨2, rfl⟩)
  | getStatus3 => exact .inr (.inl ⟨3, rfl⟩)
  | setDuty1 p => exact .inr (.inr (.inl ⟨.rightWheel, p, rfl⟩))
  | setDuty2 p => exact .inr (.inr (.inl ⟨.leftWheel, p, rfl⟩))
  | setDuty3 p => exact .inr (.inr (.inl ⟨.gripForward, p, rfl⟩))
  | setDuty4 p => exact .inr (.inr (.inl ⟨.gripBackward, p, rfl⟩))
  | ikGoal xs ys ths xg yg thg => exact .inr (.inr (.inr (.inl ⟨xs, ys, ths, xg, yg, thg, rfl⟩)))
  | tick1ms => exact .inr (.inr (.inr (.inr (.inl rfl))))
  | reset => exact .inr (.inr (.inr (.inr (.inr (.inl rfl)))))
  | tick10ms | tick50ms => exact .inr (.inr (.inr (.inr (.inr (.inr fun _ => rfl)))))
  | unknown0A code a | unknown0C code a => exact .inr (.inr (.inr (.inr (.inr (.inr fun _ => rfl)))))
  | unknown14 code | unknown18 code => exact .inr (.inr (.inr (.inr (.inr (.inr fun _ => rfl)))))

theorem exec_slotEvent (i : Fin 10) (v : F32) (s : State) : exec (slotEvent i v) s = .next (setSlot i v s) := by
  fin_cases i <;> rfl

theorem exec_statusEvent (k : Fin 4) (s : State) : exec (statusEvent k) s = getStatus s := by
  fin_cases k <;> rfl

theorem exec_dutyEvent (c : Channel) (p : F32) (s : State) : exec (dutyEvent c p) s = .next (setDuty c p s) := by
  cases c <;> rfl

/-- GET_STATUS with a CURSOR that names a slot. -/
theorem getStatus_of_lt (s : State) (h : s.cursor.toNat < 10) :
    getStatus s = .next (answerStatus ⟨s.cursor.toNat, h⟩ s) := by
  simp [getStatus, h]

/-- What an event can do. -/
theorem exec_cases (i : Instr) (s t : State) (h : exec i s = .next t) :
    (∃ j v, i = slotEvent j v ∧ t = setSlot j v s) ∨
    (∃ k, ∃ hc : s.cursor.toNat < 10, i = statusEvent k ∧ t = answerStatus ⟨s.cursor.toNat, hc⟩ s) ∨
    (∃ c p, i = dutyEvent c p ∧ t = setDuty c p s) ∨
    (∃ start goal, i = .ikGoal start.x start.y start.th goal.x goal.y goal.th ∧
      t = ikGoalWith goalSeekFunctions start goal s) ∨
    (i = .tick1ms ∧ ((s.tickPhase = .idle ∧ t = enterTick s) ∨
      (s.tickPhase = .sampling ∧ t = { s with tickPending := true }))) ∨
    (i = .reset ∧ t = resetBlock s) ∨ t = s := by
  rcases instr_kinds i with ⟨j, v, rfl⟩ | ⟨k, rfl⟩ | ⟨c, p, rfl⟩ | ⟨xs, ys, ths, xg, yg, thg, rfl⟩ | rfl | rfl | hi
  · rw [exec_slotEvent] at h
    exact .inl ⟨j, v, rfl, (Host.Outcome.next.inj h).symm⟩
  · rw [exec_statusEvent] at h
    unfold getStatus at h
    split at h
    next hc => exact .inr (.inl ⟨k, hc, rfl, (Host.Outcome.next.inj h).symm⟩)
    next => cases h
  · rw [exec_dutyEvent] at h
    exact .inr (.inr (.inl ⟨c, p, rfl, (Host.Outcome.next.inj h).symm⟩))
  · exact .inr (.inr (.inr (.inl ⟨⟨xs, ys, ths⟩, ⟨xg, yg, thg⟩, rfl, (Host.Outcome.next.inj h).symm⟩)))
  · refine .inr (.inr (.inr (.inr (.inl ⟨rfl, ?_⟩))))
    have h' := (Host.Outcome.next.inj h).symm
    split at h'
    next hp => exact .inl ⟨hp, h'⟩
    next hp => exact .inr ⟨hp, h'⟩
  · exact .inr (.inr (.inr (.inr (.inr (.inl ⟨rfl, (Host.Outcome.next.inj h).symm⟩)))))
  · rw [hi s] at h
    exact .inr (.inr (.inr (.inr (.inr (.inr (Host.Outcome.next.inj h).symm)))))

/-- The compute step changes compare registers, counters, the tick's state, draws and the trace, and nothing else. -/
theorem computeWith_frame (g : GoalSeekFunctions) (s : State) :
    (computeWith g s).slots = s.slots ∧ (computeWith g s).cursor = s.cursor ∧ (computeWith g s).inv = s.inv ∧
    (computeWith g s).params = s.params ∧ (computeWith g s).snap = s.snap ∧ (computeWith g s).hostWrite = s.hostWrite ∧
    (computeWith g s).statusPort = s.statusPort ∧ (computeWith g s).posePort = s.posePort ∧
    (computeWith g s).hostSplit = s.hostSplit ∧ (computeWith g s).input = s.input := by
  simp [computeWith, driveAll]

end Sys2Proof.Machine
end

