-- ==== Sys2Proof/Tests/Slice0.lean ====
section
/-! SUPPORT. The model's own tests. The words are written out from 30_encoding.md R71 and R74, and the expected values are
the vectors of 95_test_vectors.md (named in each docstring), not the model's answers. The second half holds, for
every obligation with hypotheses, a concrete state and operands that meet all of them. -/

namespace Sys2Proof.Tests

set_option Elab.async false

open Sys2Proof Sys2Proof.Machine Sys2Proof.Config

/-! ### Helpers -/

/-- The parameters of the example configuration EX (95_test_vectors.md section 1). -/
def exParams : Params where
  rw := 0x3D800000#32
  r := 0x3E800000#32
  f1 := 0x40000000#32
  f2 := 0x42480000#32
  k := 0x3F000000#32
  tfA1 := 0xBF800000#32
  tfA2 := 0xC0000000#32
  tfA3 := 0xBF800000#32
  tfA4 := 0xC0000000#32
  tfB1 := 0xBFC8F5C3#32
  tfB2 := 0x00000000#32
  tfB3 := 0x3FC8F5C3#32
  tfB4 := 0x00000000#32
  vTrack := 0x3F800000#32
  gripDuty := 0x42700000#32
  fp := .ieee
  tearBits := .b16

/-- The open functions of EX. -/
def exGoal : GoalSeekFunctions where
  straightSpeed := fun d => d
  arc := fun _ _ _ _ _ _ => (0x3E4CCCCD#32, 0xBE4CCCCD#32)

/-- The reset state under EX, the pose driven to (0, 0, 0). -/
def exState : State :=
  { State.reset with params := exParams, inv := invOf exParams, posePort := some ⟨0#32, 0#32, 0#32⟩ }

/-- EX with the given sampled values, the slots first and the pose last, ready to compute. -/
def sampled (values : List F32) : State :=
  { exState with
    snap := Vector.ofFn fun k => halfOf (values.getD (k.val / 2) 0#32) (sampleHalf k)
    snapDone := BitVec.allOnes 26
    tickPhase := .sampling
    input := [.compute] }

/-- The outcome is a next state of which `p` holds. -/
def goesOn (o : Host.Outcome State Fault Refusal) (p : State → Bool) : Bool :=
  match o with
  | .next t => p t
  | .fault _ => false
  | .refused _ => false

/-! ### Well-formed events -/

theorem test_wellFormed_refuses_0A_above_its_range : (Instr.unknown0A 0x0C#8 0#32).wellFormed = false := by decide
theorem test_wellFormed_refuses_0C_below_its_range : (Instr.unknown0C 0x0B#8 0#32).wellFormed = false := by decide
theorem test_wellFormed_refuses_14_above_its_range : (Instr.unknown14 0x18#8).wellFormed = false := by decide
theorem test_wellFormed_refuses_18_above_its_range : (Instr.unknown18 0x20#8).wellFormed = false := by decide

/-! ### Decoding words written out from 30_encoding.md R71, R74, R75 -/

theorem test_decode_setSlot :
    decode [0x00#8, 0x3F#8, 0x80#8, 0x00#8, 0x00#8] = .ok (.setV 0x3F800000#32) ∧
    decode [0x01#8, 0x3F#8, 0x00#8, 0x00#8, 0x00#8] = .ok (.setW 0x3F000000#32) ∧
    decode [0x02#8, 0x41#8, 0x5E#8, 0x66#8, 0x66#8] = .ok (.setL 0x415E6666#32) ∧
    decode [0x03#8, 0x41#8, 0xA0#8, 0x00#8, 0x00#8] = .ok (.setR 0x41A00000#32) ∧
    decode [0x04#8, 0x40#8, 0x00#8, 0x00#8, 0x00#8] = .ok (.setGrip 0x40000000#32) ∧
    decode [0x05#8, 0x3F#8, 0x80#8, 0x00#8, 0x00#8] = .ok (.setHe 0x3F800000#32) ∧
    decode [0x06#8, 0x40#8, 0xA0#8, 0x00#8, 0x00#8] = .ok (.setTe 0x40A00000#32) ∧
    decode [0x07#8, 0x7F#8, 0xC0#8, 0x00#8, 0x00#8] = .ok (.setGx 0x7FC00000#32) ∧
    decode [0x08#8, 0x40#8, 0x00#8, 0x00#8, 0x00#8] = .ok (.setGy 0x40000000#32) ∧
    decode [0x09#8, 0x3E#8, 0x9A#8, 0x5E#8, 0x35#8] = .ok (.setGth 0x3E9A5E35#32) := by
  decide +kernel

theorem test_decode_status_and_unknown :
    decode [0x10#8] = .ok .getStatus0 ∧ decode [0x11#8] = .ok .getStatus1 ∧
    decode [0x12#8] = .ok .getStatus2 ∧ decode [0x13#8] = .ok .getStatus3 ∧
    decode [0x0A#8, 0x3F#8, 0x80#8, 0x00#8, 0x00#8] = .ok (.unknown0A 0x0A#8 0x3F800000#32) ∧
    decode [0x0F#8, 0x3F#8, 0x80#8, 0x00#8, 0x00#8] = .ok (.unknown0C 0x0F#8 0x3F800000#32) ∧
    decode [0x14#8] = .ok (.unknown14 0x14#8) ∧ decode [0x1F#8] = .ok (.unknown18 0x1F#8) := by
  decide +kernel

theorem test_decode_setDuty :
    decode [0x20#8, 0x42#8, 0x48#8, 0x00#8, 0x00#8] = .ok (.setDuty1 0x42480000#32) ∧
    decode [0x21#8, 0x41#8, 0x5E#8, 0x66#8, 0x66#8] = .ok (.setDuty2 0x415E6666#32) ∧
    decode [0x22#8, 0x42#8, 0xC8#8, 0x00#8, 0x00#8] = .ok (.setDuty3 0x42C80000#32) ∧
    decode [0x23#8, 0xC0#8, 0xA0#8, 0x00#8, 0x00#8] = .ok (.setDuty4 0xC0A00000#32) := by
  decide +kernel

/-- 0x30_3DCCCCCD_00000000_00000000_3E4CCCCD_00000000_00000000 (section 3.3). -/
theorem test_decode_ikGoal :
    decode [0x30#8, 0x3D#8, 0xCC#8, 0xCC#8, 0xCD#8, 0x00#8, 0x00#8, 0x00#8, 0x00#8, 0x00#8, 0x00#8, 0x00#8, 0x00#8,
      0x3E#8, 0x4C#8, 0xCC#8, 0xCD#8, 0x00#8, 0x00#8, 0x00#8, 0x00#8, 0x00#8, 0x00#8, 0x00#8, 0x00#8] =
    .ok (.ikGoal 0x3DCCCCCD#32 0x00000000#32 0x00000000#32 0x3E4CCCCD#32 0x00000000#32 0x00000000#32) := by
  decide +kernel

theorem test_decode_ticks_and_reset :
    decode [0x40#8] = .ok .tick1ms ∧ decode [0x41#8] = .ok .tick10ms ∧ decode [0x42#8] = .ok .tick50ms ∧
    decode [0x7F#8] = .ok .reset := by
  decide +kernel

/-- H10 and its neighbours (30_encoding.md R76). -/
theorem test_decode_refuses_by_name :
    decode [] = .error .emptyWord ∧ decode [0x24#8] = .error (.invalidCode 0x24#8) ∧
    decode [0x43#8] = .error (.invalidCode 0x43#8) ∧ decode [0x80#8] = .error (.invalidCode 0x80#8) ∧
    decode [0x02#8, 0x41#8] = .error (.wrongLength 0x02#8) ∧ decode [0x40#8, 0x00#8] = .error (.wrongLength 0x40#8) := by
  decide +kernel

/-- The word of SET_L 13.9, in the numbering of spec/opcode_table.json, is the next step's event. -/
theorem test_fetched_word_runs :
    goesOn (step (exState.withFetchWord 40 0x02415E6666)) (fun t =>
      decide (t.slot 2 = 0x415E6666#32 ∧ t.cursor = 2#4 ∧ t.input = [])) = true := by
  decide +kernel

/-! ### Host commands (section 3.1) -/

/-- H1, H5, H6 for every slot, with H5's NaN pattern: bit-exact, CURSOR the index. -/
theorem test_setSlot_keeps_the_pattern :
    ∀ i : Fin 10, goesOn (exec (slotEvent i 0x7FC00000#32) { exState with diagTicksSinceWrite := 7#32 }) (fun t =>
      decide (t.slot i = 0x7FC00000#32 ∧ t.cursor = BitVec.ofNat 4 i.val ∧ t.diagTicksSinceWrite = 0#32)) = true := by
  decide +kernel

/-- 20_memory.md R52: slot 2 holds 13.9 little-endian at offsets 0x08 to 0x0B, and its zero bytes are not listed. -/
theorem test_setSlot_is_little_endian :
    goesOn (exec (.setL 0x415E0066#32) exState) (fun t =>
      decide (t.slots = [(8, 0x66#8), (10, 0x5E#8), (11, 0x41#8)])) = true := by
  decide +kernel

/-- H3, H4: all four codes alike; at reset SLOT[0]. -/
theorem test_getStatus_answers_the_cursors_slot :
    ∀ k : Fin 4,
      goesOn (exec (statusEvent k) exState) (fun t => decide (t.statusPort = some 0#32)) = true ∧
      goesOn (exec (statusEvent k) { exState with cursor := 3#4, slots := Memory.writeSlot [] 3 0x41A00000#32 })
        (fun t => decide (t.statusPort = some 0x41A00000#32 ∧ t.cursor = 3#4 ∧ t.trace = [.status 0x41A00000#32])) =
        true := by
  decide +kernel

/-- H7, H8: state X with CURSOR 5. -/
theorem test_unknown_codes_change_nothing :
    exec (.unknown0A 0x0A#8 0x3F800000#32) { exState with cursor := 5#4 } = .next { exState with cursor := 5#4 } ∧
    exec (.unknown0C 0x0F#8 0x3F800000#32) { exState with cursor := 5#4 } = .next { exState with cursor := 5#4 } ∧
    exec (.unknown14 0x14#8) { exState with cursor := 5#4 } = .next { exState with cursor := 5#4 } ∧
    exec (.unknown18 0x1F#8) { exState with cursor := 5#4 } = .next { exState with cursor := 5#4 } := by
  exact ⟨rfl, rfl, rfl, rfl⟩

/-! ### Inverse kinematics (sections 3.2, 3.3) -/

/-- The matrix of EX, and that of the C2 vectors. -/
theorem test_inv :
    invOf exParams = ⟨0x41800000#32, 0xC0000000#32, 0x41800000#32, 0x40000000#32⟩ ∧
    invOf { exParams with rw := 0x3D4CCCCD#32, r := 0x3E4CCCCD#32 } =
      ⟨0x41A00000#32, 0xC0000000#32, 0x41A00000#32, 0x40000000#32⟩ := by
  decide +kernel

/-- K2, K3, K4, K6: wheel velocities and duties. -/
theorem test_matrix_product :
    matrixDrive exParams (invOf exParams) 0x80000000#32 0x80000000#32 =
      ⟨0x00000000#32, 0x80000000#32, 0x42480000#32, 0x42480000#32⟩ ∧
    matrixDrive exParams (invOf exParams) 0x3F800000#32 0x3F000000#32 =
      ⟨0x41700000#32, 0x41880000#32, 0x42A00000#32, 0x42A80000#32⟩ ∧
    matrixDrive exParams (invOf exParams) 0x3E99999A#32 0x3F333333#32 =
      ⟨0x4059999A#32, 0x40C66667#32, 0x42633333#32, 0x4279999A#32⟩ ∧
    matrixDrive exParams (invOf exParams) 0xBF000000#32 0x00000000#32 =
      ⟨0xC1000000#32, 0xC1000000#32, 0x42080000#32, 0x42080000#32⟩ := by
  decide +kernel

/-- K10 and K13: infinities and overflow. -/
theorem test_matrix_product_overflows :
    ikVw .ieee (invOf exParams) 0x3F800000#32 0x7F800000#32 = ⟨0xFF800000#32, 0x7F800000#32⟩ ∧
    ikVw .ieee (invOf exParams) 0x7E967699#32 0xFE967699#32 = ⟨0x7F800000#32, 0x7F800000#32⟩ := by
  decide +kernel

/-- The C2 mismatch vectors: the matrix's result, not the closed formula's. -/
theorem test_matrix_differs_from_the_formula :
    let inv := invOf { exParams with rw := 0x3D4CCCCD#32, r := 0x3E4CCCCD#32 }
    (ikVw .ieee inv 0xBF4F5C29#32 0xBF70A3D7#32).wl = 0xC1651EB9#32 ∧
    (ikVw .ieee inv 0x3F4CCCCD#32 0xBF70A3D7#32).wl = 0x418F0A3D#32 ∧
    (ikVw .ieee inv 0xBC23D70A#32 0xBDCCCCCD#32).wl = 0x32800000#32 := by
  decide +kernel

/-- GS2, GS3, GS5, GS6: the straight branch with the distance defect. -/
theorem test_goal_seek_straight :
    goalSeek exGoal .ieee ⟨0x3DCCCCCD#32, 0#32, 0#32⟩ ⟨0x3E4CCCCD#32, 0#32, 0#32⟩ = ⟨0x3D372DBF#32, 0x3D372DBF#32⟩ ∧
    goalSeek exGoal .ieee ⟨0x3DCCCCCD#32, 0#32, 0#32⟩ ⟨0x3E4CCCCD#32, 0x3D4CCCCD#32, 0x3A83126F#32⟩ =
      ⟨0x3D89624F#32, 0x3D89624F#32⟩ ∧
    chordDistance .ieee 0x3F800000#32 0#32 0x40400000#32 0#32 = 0x401CC471#32 ∧
    goalSeek exGoal .ieee ⟨0x3F800000#32, 0#32, 0#32⟩ ⟨0x40400000#32, 0#32, 0#32⟩ = ⟨0x3E19999A#32, 0x3E19999A#32⟩ ∧
    goalSeek exGoal .ieee ⟨0#32, 0#32, 0#32⟩ ⟨0#32, 0#32, 0#32⟩ = ⟨0#32, 0#32⟩ := by
  decide +kernel

/-- S4, GS7, GS8, GS10: which side of EPS. -/
theorem test_goal_branch :
    fsub .ieee 0x3E9A5E35#32 0x3E99999A#32 = 0x3AC49B00#32 ∧
    goalBranch .ieee 0x3E99999A#32 0x3E9A5E35#32 = .straight ∧
    goalBranch .ieee 0x3E99999A#32 (fadd .ieee 0x3E99999A#32 0x3B09A000#32) = .arc ∧
    goalBranch .ieee 0x40490FD0#32 0xC0490FD0#32 = .arc ∧
    goalBranch .ieee 0x00000000#32 0x3B03126F#32 = .arc ∧
    goalSeek exGoal .ieee ⟨0#32, 0#32, 0x40490FD0#32⟩ ⟨0x3F800000#32, 0x3F800000#32, 0xC0490FD0#32⟩ =
      ⟨0x3E19999A#32, 0xBE19999A#32⟩ := by
  decide +kernel

/-- IK_GOAL on GS2 under EX (program P3): CMP[2] and CMP[1] 15026, one record, nothing else. -/
theorem test_ikGoal_drives_the_wheels :
    ikGoalWith exGoal ⟨0x3DCCCCCD#32, 0#32, 0#32⟩ ⟨0x3E4CCCCD#32, 0#32, 0#32⟩ exState =
      { exState with cmp1 := 15026#16, cmp2 := 15026#16, trace := [.ik .straight 0x3D372DBF#32 0x3D372DBF#32] } := by
  decide +kernel

/-! ### Dispatch (sections 3.4 to 3.8) -/

/-- M1 to M10. -/
theorem test_mode_selection :
    selectMode .ieee 0x40A00000#32 0x40400000#32 = .trajectoryFollow ∧
    selectMode .ieee 0x00000000#32 0x40400000#32 = .goalSeek ∧
    selectMode .ieee 0xBF800000#32 0x00000000#32 = .directSpeed ∧
    selectMode .ieee 0x7FC00000#32 0x00000000#32 = .directSpeed ∧
    selectMode .ieee 0x7FC00000#32 0x3F800000#32 = .goalSeek ∧
    selectMode .ieee 0x00000000#32 0x80000000#32 = .directSpeed ∧
    selectMode .ieee 0x00000000#32 0x7FC00000#32 = .goalSeek ∧
    selectMode .ieee 0x7F800000#32 0x00000000#32 = .trajectoryFollow ∧
    selectMode .ieee 0x00000001#32 0x00000000#32 = .trajectoryFollow ∧
    selectMode (.ftz true true) 0x00000001#32 0x00000000#32 = .directSpeed ∧
    selectMode .ieee 0x00000000#32 0x00000001#32 = .goalSeek ∧
    selectMode (.ftz true true) 0x00000000#32 0x00000001#32 = .directSpeed := by
  decide +kernel

/-- W1 to W14. -/
theorem test_heading_regulator :
    [0x40000000#32, 0x3FCCCCCD#32, 0x3FC8F5C3#32, 0x3F800000#32, 0x3F48F5C3#32, 0x00000000#32, 0x80000000#32,
      0xBF000000#32, 0xBF800000#32, 0xBFC8F5C3#32, 0xBFCA3D71#32, 0xC0000000#32, 0x7FC00000#32, 0x7F800000#32].map
      (headingRegulator exParams) =
    [0xBFE47AE2#32, 0xBFCAE148#32, 0xBFC8F5C3#32, 0xBF800000#32, 0xBF48F5C3#32, 0x00000000#32, 0x00000000#32,
      0x3F000000#32, 0x3F800000#32, 0x3FC8F5C3#32, 0x3FC9999A#32, 0x3FE47AE2#32, 0x00000000#32, 0xFF800000#32] := by
  decide +kernel

/-- T1 to T5 and T8: no rotation below 50. -/
theorem test_trajectory_follow :
    let tf := trajectoryFollow exParams (invOf exParams)
    tf 0x40A00000#32 0x3F800000#32 = ⟨0x41800000#32, 0x41800000#32, 0x42A40000#32, 0x42A40000#32⟩ ∧
    tf 0x4247F5C3#32 0x3F800000#32 = ⟨0x41800000#32, 0x41800000#32, 0x42A40000#32, 0x42A40000#32⟩ ∧
    tf 0x42480000#32 0x3F800000#32 = ⟨0x41900000#32, 0x41600000#32, 0x42AC0000#32, 0x429C0000#32⟩ ∧
    tf 0x42700000#32 0x3F800000#32 = ⟨0x41900000#32, 0x41600000#32, 0x42AC0000#32, 0x429C0000#32⟩ ∧
    tf 0x42700000#32 0xBF800000#32 = ⟨0x41600000#32, 0x41900000#32, 0x429C0000#32, 0x42AC0000#32⟩ ∧
    compareOf .ieee (tf 0x7F800000#32 0x40000000#32).dl = 26742#16 ∧
    compareOf .ieee (tf 0x7F800000#32 0x40000000#32).dr = 22458#16 := by
  decide +kernel

/-- D1 to D4: compare counts of the two wheels after a compute step. -/
theorem test_compute_turns :
    goesOn (step (sampled [0#32, 0#32, 0x415E6666#32])) (fun t => decide (t.cmp2 = 4170#16 ∧ t.cmp1 = 30000#16)) = true ∧
    goesOn (step (sampled [0#32, 0#32, 0#32, 0x41A00000#32]))
      (fun t => decide (t.cmp2 = 30000#16 ∧ t.cmp1 = 6000#16)) = true ∧
    goesOn (step (sampled [0#32, 0#32, 0x415E6666#32, 0x41A00000#32]))
      (fun t => decide (t.cmp2 = 4170#16 ∧ t.cmp1 = 30000#16)) = true ∧
    goesOn (step (sampled [0#32, 0#32, 0x42C90000#32]))
      (fun t => decide (t.diagDutyOor = 1#32 ∧ t.cmp1 = 30000#16)) = true := by
  decide +kernel

/-- K3 through a compute step: counts 24000 and 25200; the gripper of G1; the record of program P1's form. -/
theorem test_compute_matrix :
    goesOn (step (sampled [0x3F800000#32, 0x3F000000#32])) (fun t =>
      decide (t.cmp2 = 24000#16 ∧ t.cmp1 = 25200#16 ∧ t.cmp3 = 18000#16 ∧ t.cmp4 = 0#16 ∧
        t.diagTicksSinceWrite = 1#32 ∧ t.tickPhase = .idle ∧
        t.trace = [.tick .directSpeed 0x41700000#32 0x41880000#32 0x42A00000#32 0x42A80000#32 0x42700000#32 0#32])) =
      true := by
  decide +kernel

/-- Program P3's tick: goal seek on GS1 from the pose (0, 0, 0.3), 15090 on both wheels, the gripper stopped. -/
theorem test_compute_goal_seek :
    let t := computeWith exGoal (sampled [0#32, 0#32, 0#32, 0#32, 0x40000000#32, 0#32, 0#32, 0x3F800000#32, 0x40000000#32,
      0x3E9A5E35#32, 0#32, 0#32, 0x3E99999A#32])
    t.cmp1 = 15090#16 ∧ t.cmp2 = 15090#16 ∧ t.cmp3 = 0#16 ∧ t.cmp4 = 0#16 ∧
    t.trace = [.tick .goalSeek 0x3E19999A#32 0x3E19999A#32 0x42493333#32 0x42493333#32 0#32 0#32] := by
  decide +kernel

/-- G1 to G7. -/
theorem test_gripper :
    [0x00000000#32, 0x80000000#32, 0x3F800000#32, 0x40000000#32, 0x3F000000#32, 0x7FC00000#32, 0x40400000#32].map
      (gripDuties exParams) =
    [⟨0x42700000#32, 0#32⟩, ⟨0x42700000#32, 0#32⟩, ⟨0#32, 0x42700000#32⟩, ⟨0#32, 0#32⟩, ⟨0#32, 0#32⟩, ⟨0#32, 0#32⟩,
      ⟨0#32, 0#32⟩] := by
  decide +kernel

/-! ### The duty mapper (section 3.9) -/

/-- P1 to P13. -/
theorem test_compare_counts :
    [0x42480000#32, 0x415E6666#32, 0x42C80000#32, 0x00000000#32, 0x80000000#32, 0x42856666#32, 0x42C7FAE1#32,
      0x3C23D70A#32, 0x00000001#32, 0x42053333#32, 0x414570A4#32, 0x41A00000#32, 0x42A40000#32, 0x42AC0000#32,
      0x429C0000#32].map (compareOf .ieee) =
    [15000#16, 4170#16, 30000#16, 0#16, 0#16, 20009#16, 29997#16, 3#16, 0#16, 9990#16, 3702#16, 6000#16, 24600#16,
      25800#16, 23400#16] := by
  decide +kernel

/-- P14 to P18: DRAW. -/
theorem test_duties_out_of_range :
    [0x42C80001#32, 0x43160000#32, 0xC0A00000#32, 0x7FC00000#32, 0x7F800000#32].all (dutyOutOfRange .ieee) = true := by
  decide +kernel

/-- The SET_DUTY vectors: each writes its own channel, and no slot, cursor or other channel. -/
theorem test_setDuty_writes_its_channel :
    exec (.setDuty1 0x42480000#32) exState =
      .next { exState with cmp1 := 15000#16, trace := [.duty .rightWheel 0x42480000#32] } ∧
    exec (.setDuty2 0x415E6666#32) exState =
      .next { exState with cmp2 := 4170#16, trace := [.duty .leftWheel 0x415E6666#32] } ∧
    exec (.setDuty3 0x42C80000#32) exState =
      .next { exState with cmp3 := 30000#16, trace := [.duty .gripForward 0x42C80000#32] } ∧
    goesOn (exec (.setDuty4 0xC0A00000#32) exState)
      (fun t => decide (t.diagDutyOor = 1#32 ∧ t.cmp1 = 0#16 ∧ t.cmp2 = 0#16 ∧ t.cmp3 = 0#16)) = true := by
  refine ⟨?_, ?_, ?_, by decide +kernel⟩ <;> exact congrArg Host.Outcome.next (by decide +kernel)

/-! ### Ticks, sampling and reset (section 3.10) -/

/-- R3: a second and a third TICK_1MS during a tick merge into one pending tick; the first enters. -/
theorem test_tick1ms_enters_then_pends :
    goesOn (exec .tick1ms exState) (fun t => decide (t.tickPhase = .sampling ∧ t.snapDone = 0#26 ∧ t.tickPending = false)) =
      true ∧
    goesOn (exec .tick1ms { exState with tickPhase := .sampling, tickPending := true, snapDone := 31#26 })
      (fun t => decide (t.tickPhase = .sampling ∧ t.snapDone = 31#26 ∧ t.tickPending = true)) = true := by
  decide +kernel

/-- R4: the compute step of a tick with another one pending. -/
theorem test_pending_tick_starts_at_once :
    goesOn (step { sampled [] with tickPending := true }) (fun t =>
      decide (t.tickPhase = .sampling ∧ t.snapDone = 0#26 ∧ t.tickPending = false ∧ t.trace.length = 1)) = true := by
  decide +kernel

/-- R5: the placeholder ticks, during a sampling phase. -/
theorem test_placeholder_ticks :
    exec .tick10ms (sampled []) = .next (sampled []) ∧ exec .tick50ms (sampled []) = .next (sampled []) := by
  exact ⟨rfl, rfl⟩

/-- R6 and R1: RESET in the middle of a tick and of a host write. -/
theorem test_reset_abandons_everything :
    goesOn (exec .reset { sampled [] with
        cursor := 5#4, cmp1 := 1#16, cmp2 := 2#16, cmp3 := 3#16, cmp4 := 4#16, diagDutyOor := 9#32
        diagTicksSinceWrite := 9#32, tickPending := true, hostWrite := some ⟨2, .lo, 0#16⟩
        slots := Memory.writeSlot [] 2 0x415E6666#32 }) (fun t =>
      decide (t.slots = [] ∧ t.cursor = 0#4 ∧ t.cmp1 = 0#16 ∧ t.cmp2 = 0#16 ∧ t.cmp3 = 0#16 ∧ t.cmp4 = 0#16 ∧
        t.tickPhase = .idle ∧ t.tickPending = false ∧ t.diagDutyOor = 0#32 ∧ t.diagTicksSinceWrite = 0#32 ∧
        t.hostWrite = none ∧ t.params = exParams)) = true := by
  decide +kernel

/-- The start of R7 and R8: SLOT[2] = 13.9, every half but those of slot 2 sampled. -/
def beforeTornRead (first : Half) : State :=
  { sampled [] with
    slots := Memory.writeSlot [] 2 0x415E6666#32
    snapDone := 0x3FFFFCF#26
    input := [.event (some first) [0x02#8, 0x41#8, 0xA0#8, 0x00#8, 0x00#8], .sample 5, .sample 4, .compute, .hostHalf] }

/-- R7: the high half first: torn 0x41A06666, count 6015; the slot ends at 20.0. -/
theorem test_torn_read_high_half_first :
    goesOn (stepN 5 (beforeTornRead .hi)) (fun t =>
      decide (t.snapSlot 2 = 0x41A06666#32 ∧ t.cmp2 = 6015#16 ∧ t.slot 2 = 0x41A00000#32 ∧ t.cursor = 2#4)) = true := by
  decide +kernel

/-- R8: the low half first: torn 0x415E0000, count 4162. -/
theorem test_torn_read_low_half_first :
    goesOn (stepN 5 (beforeTornRead .lo)) (fun t =>
      decide (t.snapSlot 2 = 0x415E0000#32 ∧ t.cmp2 = 4162#16 ∧ t.slot 2 = 0x41A00000#32)) = true := by
  decide +kernel

/-! ### NaNs (free sign and payload) -/

/-- GS4: the root of -2 is a NaN, and the clamp lets a NaN pass. -/
theorem test_distance_can_be_nan :
    isNan (goalSeek exGoal .ieee ⟨0xBF800000#32, 0#32, 0#32⟩ ⟨0x3F800000#32, 0#32, 0#32⟩).wl = true := by
  have hu : unpack .ieee 0xC0000000#32 = .fin true (2 ^ 23) (-22) := by decide +kernel
  have hd : fadd .ieee (fmul .ieee (fsub .ieee 0x3F800000#32 0xBF800000#32) (fmul .ieee 0x3F800000#32 0xBF800000#32))
      (fmul .ieee (fsub .ieee 0#32 0#32) (fsub .ieee 0#32 0#32)) = 0xC0000000#32 := by decide +kernel
  have h : chordDistance .ieee 0xBF800000#32 0#32 0x3F800000#32 0#32 = producedNan 3 0xC0000000#32 0xC0000000#32 := by
    simp only [chordDistance, hd, fsqrt, hu]
    rfl
  have hb : goalBranch .ieee 0#32 0#32 = .straight := by decide +kernel
  simp [goalSeek, goalWheels, hb, h, exGoal, clampSpeed, fgt]

/-- GS9: a NaN heading takes the arc branch. -/
theorem test_nan_heading_takes_the_arc : goalBranch .ieee 0x7FC00000#32 0#32 = .arc := by
  have hz : unpack .ieee 0#32 = .fin false 0 (-149) := by decide +kernel
  have hu : unpack .ieee (fneg 0x7FC00000#32) = .nan := by decide +kernel
  have h : isNan (fabs (fsub .ieee 0#32 0x7FC00000#32)) = true := by
    simp [fsub, addAs, hu, hz]
  simp [goalBranch, h]

/-! ### Witnesses: for each obligation with hypotheses, a state and operands that meet them -/

/-- EX with the schedule `moves`. -/
def withMoves (moves : List Move) : State := { exState with input := moves }

/-- A host word, SET_L 20.0. -/
def setLWord : List Byte := [0x02#8, 0x41#8, 0xA0#8, 0x00#8, 0x00#8]

/-- EX with the low half of SET_L 20.0 still to be written. -/
def halfWritten : State := { exState with hostWrite := some ⟨2, .lo, 0#16⟩ }

theorem exState_inv : exState.Inv := ⟨by decide, by decide, fun _ => rfl, fun h => by cases h⟩

theorem witness_DecodeOfEncodeIsTheEvent :
    (Instr.setV 0#32).wellFormed = true ∧ (Instr.unknown0A 0x0A#8 0#32).wellFormed = true ∧
    (Instr.unknown0A 0x0B#8 0#32).wellFormed = true ∧ (Instr.unknown0C 0x0C#8 0#32).wellFormed = true ∧
    (Instr.unknown0C 0x0F#8 0#32).wellFormed = true ∧ (Instr.unknown14 0x14#8).wellFormed = true ∧
    (Instr.unknown14 0x17#8).wellFormed = true ∧ (Instr.unknown18 0x18#8).wellFormed = true ∧
    (Instr.unknown18 0x1F#8).wellFormed = true := by decide

theorem witness_EncodeOfDecodeIsTheWord : decode setLWord = .ok (.setL 0x41A00000#32) := by decide +kernel

/-- Both ends of each range of invalid codes. -/
theorem witness_InvalidCodesAreRefused :
    ∀ code ∈ [0x24#8, 0x2F#8, 0x31#8, 0x3F#8, 0x43#8, 0x7E#8, 0x80#8, 0xFF#8],
      ((0x24 ≤ code.toNat ∧ code.toNat ≤ 0x2F) ∨ (0x31 ≤ code.toNat ∧ code.toNat ≤ 0x3F) ∨
        (0x43 ≤ code.toNat ∧ code.toNat ≤ 0x7E) ∨ 0x80 ≤ code.toNat) ∧
      (withMoves [.event none [code]]).input = .event none (code :: []) :: [] := by decide

/-- A word of each format. -/
theorem witness_WordLengthFollowsFromTheGroup :
    decode [0x0F#8, 0#8, 0#8, 0#8, 0#8] = .ok (.unknown0C 0x0F#8 0#32) ∧
    decode [0x23#8, 0#8, 0#8, 0#8, 0#8] = .ok (.setDuty4 0#32) ∧
    decode (0x30#8 :: List.replicate 24 0#8) = .ok (.ikGoal 0#32 0#32 0#32 0#32 0#32 0#32) ∧
    decode [0x7F#8] = .ok .reset := by decide +kernel

theorem witness_AStepRunsTheDecodedEvent :
    (withMoves [.event none setLWord]).input = .event none setLWord :: [] ∧
    decode setLWord = .ok (.setL 0x41A00000#32) ∧ (withMoves [.event none setLWord]).hostWrite = none := by
  decide +kernel

theorem witness_AHostCommandWaitsForTheHalfWrite :
    let s := { halfWritten with input := [.event none setLWord] }
    s.input = .event none setLWord :: [] ∧ decode setLWord = .ok (.setL 0x41A00000#32) ∧
    (Instr.setL 0x41A00000#32).port = .host ∧ s.hostWrite = some ⟨2, .lo, 0#16⟩ := by
  decide +kernel

/-- The last slot a CURSOR can name. -/
theorem witness_NoEventStopsTheBlock : ({ exState with cursor := 9#4 } : State).cursor.toNat < 10 := by decide

theorem witness_OnlyWordsThatSpellNoEventAreRefused :
    (withMoves [.event none [0x24#8]]).Inv ∧ step (withMoves [.event none [0x24#8]]) = .refused (.invalidCode 0x24#8) := by
  exact ⟨⟨by decide, by decide, fun _ => rfl, fun h => by cases h⟩, rfl⟩

theorem witness_SetSlotWritesItsSlot :
    Memory.wf exState.slots = true ∧ exState.writesWhole ∧
    ({ exState with hostSplit := some .hi, params := { exParams with tearBits := .b32 } } : State).writesWhole := by
  exact ⟨by decide, .inl rfl, .inr rfl⟩

theorem witness_ASplitSetSlotWritesOneHalf :
    let s := { exState with hostSplit := some .hi, slots := [(0, 1#8), (39, 255#8)] }
    Memory.wf s.slots = true ∧ s.params.tearBits = .b16 ∧ s.hostSplit = some .hi := by decide

theorem witness_TheSecondHalfCompletesTheWrite :
    let s := { halfWritten with input := [.hostHalf] }
    Memory.wf s.slots = true ∧ s.hostWrite = some ⟨2, .lo, 0#16⟩ ∧ s.input = .hostHalf :: [] := by decide

theorem witness_ASplitWriteEndsAsAWholeOne :
    Memory.wf exState.slots = true ∧ exState.params.tearBits = .b16 ∧ exState.hostWrite = none := by decide

/-- Written whole for the first clause, also with TEAR_BITS = 32; no half owed for the second. -/
theorem witness_RepeatingASetSlotChangesNothing :
    Memory.wf exState.slots = true ∧ exState.writesWhole ∧ exState.params.tearBits = .b16 ∧ exState.hostWrite = none ∧
    ({ exState with hostSplit := some .lo, params := { exParams with tearBits := .b32 } } : State).writesWhole := by
  exact ⟨by decide, .inl rfl, rfl, rfl, .inr rfl⟩

theorem witness_GetStatusAnswersTheCursorsSlot : ({ exState with cursor := 9#4 } : State).cursor.toNat < 10 := by decide

theorem witness_GetStatusOutsideTheSlotsIsRefused :
    10 ≤ ({ exState with cursor := 10#4 } : State).cursor.toNat ∧
    10 ≤ ({ exState with cursor := 15#4 } : State).cursor.toNat := by decide

/-- For each of the three clauses. -/
theorem witness_GetStatusReadsBackTheLastWrite :
    Memory.wf exState.slots = true ∧ exState.writesWhole ∧ exState.hostWrite = none ∧ exState.params.tearBits = .b16 := by
  exact ⟨by decide, .inl rfl, rfl, rfl⟩

/-- Both ends of the two ranges of unknown codes. -/
theorem witness_UnknownHostCodesChangeNothing :
    (0x0A ≤ (0x0A#8).toNat ∧ (0x0A#8).toNat ≤ 0x0F) ∧ (0x0A ≤ (0x0F#8).toNat ∧ (0x0F#8).toNat ≤ 0x0F) ∧
    (0x14 ≤ (0x14#8).toNat ∧ (0x14#8).toNat ≤ 0x1F) ∧ (0x14 ≤ (0x1F#8).toNat ∧ (0x1F#8).toNat ≤ 0x1F) := by decide

/-- The ends of the range: -0.0 and 100. -/
theorem witness_SetDutyInRangeWritesItsChannel :
    dutyOutOfRange exState.params.fp 0x80000000#32 = false ∧ dutyOutOfRange exState.params.fp 0x42C80000#32 = false := by
  decide +kernel

/-- A NaN, the number just below 0, and the one just above 100. -/
theorem witness_SetDutyOutOfRangeIsCounted :
    isNan 0x7FC00000#32 = true ∧ flt exState.params.fp 0x80000001#32 zero = true ∧
    fgt exState.params.fp 0x42C80001#32 hundred = true := by decide +kernel

theorem witness_CountsInRangeStayWithinThePeriod :
    (∀ fp ∈ [FpSubnormal.ieee, .ftz false false, .ftz false true, .ftz true false, .ftz true true],
      dutyOutOfRange fp 0x42C80000#32 = false ∧ dutyOutOfRange fp 0x00000001#32 = false) ∧
    (isFinite 0x80000000#32 = true ∧ valueOf 0x80000000#32 = 0) ∧
    (isFinite 0x477FFF00#32 = true ∧ valueOf 0x477FFF00#32 = 65535) := by
  refine ⟨by decide +kernel, ⟨by decide +kernel, ?_⟩, by decide +kernel, ?_⟩
  · simp [valueOf, fractionOf, exponentOf]
  · have hs : signOf 0x477FFF00#32 = false := by decide
    norm_num [valueOf, hs, fractionOf, exponentOf]

/-- The largest finite number and the smallest subnormal. -/
theorem witness_AdditionIsCorrectlyRounded :
    isFinite 0x7F7FFFFF#32 = true ∧ isFinite 0x80000001#32 = true ∧ valueOf 0#32 + valueOf 0#32 = 0 := by
  refine ⟨by decide +kernel, by decide +kernel, ?_⟩
  simp [valueOf, fractionOf, exponentOf]

theorem witness_MultiplicationIsCorrectlyRounded :
    isFinite 0x7F7FFFFF#32 = true ∧ isFinite 0x80000001#32 = true := by decide +kernel

/-- The smallest subnormal is no zero; a zero is. -/
theorem witness_DivisionIsCorrectlyRounded :
    isFinite 0x00000001#32 = true ∧ isFinite 0#32 = true ∧ valueOf 0x00000001#32 ≠ 0 ∧ valueOf 0#32 = 0 := by
  refine ⟨by decide +kernel, by decide +kernel, ?_, ?_⟩ <;> simp [valueOf, signOf, fractionOf, exponentOf]

/-- -0.0 is finite and not negative. -/
theorem witness_SquareRootIsCorrectlyRounded :
    isFinite 0x80000000#32 = true ∧ 0 ≤ valueOf 0x80000000#32 := by
  refine ⟨by decide +kernel, ?_⟩
  simp [valueOf, fractionOf, exponentOf]

/-- The first and the last NaN pattern of each sign; the smallest normal number, and the smallest subnormal under IEEE. -/
theorem witness_InvalidOperationsGiveQuietNans :
    isNan 0x7F800001#32 = true ∧ isNan 0x7FFFFFFF#32 = true ∧ isNan 0xFF800001#32 = true ∧ isNan 0xFFFFFFFF#32 = true ∧
    (isFinite 0x00800000#32 = true ∧ 0x00800000 ≤ magnitudeOf 0x00800000#32) ∧
    (isFinite 0x80000001#32 = true ∧ flushesOperands .ieee = false ∧ magnitudeOf 0x80000001#32 ≠ 0) := by
  decide +kernel

theorem witness_RootsOfNegativeNumbersAreNans :
    flt .ieee 0x80000001#32 zero = true ∧ flt .ieee 0xFF800000#32 zero = true := by decide +kernel

theorem witness_NegatingAQuotientNegatesTheNumerator :
    isNan (fdiv .ieee 0x3E800000#32 0x3E000000#32) = false := by decide +kernel

theorem witness_TheMatrixMultiplyOfZeros :
    let inv := invOf exParams
    isFinite inv.i00 = true ∧ isFinite inv.i01 = true ∧ isFinite inv.i10 = true ∧ isFinite inv.i11 = true ∧
    signOf inv.i00 = false ∧ signOf inv.i01 = true ∧ signOf inv.i10 = false ∧ signOf inv.i11 = false := by
  decide +kernel

/-- The numbers just outside VMAX, and VMAX itself. -/
theorem witness_TheClampKeepsSpeedsWithinVmax :
    fgt .ieee 0x3E19999B#32 vMax = true ∧ flt .ieee 0xBE19999B#32 (fneg vMax) = true ∧
    fgt .ieee 0x3E19999A#32 vMax = false ∧ flt .ieee 0x3E19999A#32 (fneg vMax) = false ∧
    flt .ieee 0xBE19999A#32 (fneg vMax) = false ∧ isNan 0x7FC00000#32 = true := by decide +kernel

/-- S4 and GS10: just under EPS, and EPS itself. -/
theorem witness_IkGoalKeepsTheDistanceDefect :
    let fp := exState.params.fp
    flt fp (fabs (fsub fp 0x3E9A5E35#32 0x3E99999A#32)) 0x3B03126F#32 = true ∧
    flt fp (fabs (fsub fp 0x3B03126F#32 0x00000000#32)) 0x3B03126F#32 = false := by decide +kernel

/-- Each clause, the subnormals at both ends. -/
theorem witness_ModeSelectionAtItsCorners :
    isNan 0x7FC00000#32 = true ∧ signOf 0x80000000#32 = true ∧ fgt (.ftz false true) 0#32 zero = false ∧
    fgt .ieee 0#32 zero = false ∧
    (0 < (0x00000001#32).toNat % 2 ^ 31 ∧ (0x807FFFFF#32).toNat % 2 ^ 31 < 2 ^ 23) ∧
    flushesCompares .ieee = false ∧ flushesCompares (.ftz false true) = true := by decide +kernel

/-- Both ends of each branch. -/
theorem witness_HeadingRegulatorBranchesByPattern :
    exParams.fp = .ieee ∧
    ([0x3FC8F5C4#32, 0x7F800000#32].all fun e => decide (0x3FC8F5C3 < e.toNat ∧ e.toNat ≤ 0x7F800000)) = true ∧
    ([0x00000001#32, 0x3FC8F5C3#32].all fun e => decide (0 < e.toNat ∧ e.toNat ≤ 0x3FC8F5C3)) = true ∧
    ([0xBFC8F5C4#32, 0xFF800000#32].all fun e => decide (0xBFC8F5C3 < e.toNat ∧ e.toNat ≤ 0xFF800000)) = true ∧
    ([0x80000001#32, 0xBFC8F5C3#32].all fun e => decide (0x80000000 < e.toNat ∧ e.toNat ≤ 0xBFC8F5C3)) = true ∧
    ([0x00000000#32, 0x80000000#32].all fun e => decide (e.toNat % 2 ^ 31 = 0)) = true ∧
    isNan 0x7F800001#32 = true ∧ isNan 0xFF800001#32 = true := by decide +kernel

/-- Both ends, and both sides of 50. -/
theorem witness_TrajectoryFollowTurnsFromFiftyOn :
    exParams.fp = .ieee ∧
    ([0x00000001#32, 0x4247FFFF#32, 0x42480000#32, 0x7F800000#32].all fun te =>
      decide (0 < te.toNat ∧ te.toNat ≤ 0x7F800000)) = true := by
  decide +kernel

theorem witness_GripperServiceByPattern :
    exParams.fp = .ieee ∧ (0x80000000#32).toNat % 2 ^ 31 = 0 ∧ (0x3F800000#32).toNat = 0x3F800000 ∧
    (0x3F800001#32).toNat % 2 ^ 31 ≠ 0 ∧ (0x3F800001#32).toNat ≠ 0x3F800000 ∧
    (0x00000001#32).toNat % 2 ^ 31 ≠ 0 := by decide +kernel

/-- Also for ComputeOverwritesDirectWrites. -/
theorem witness_TheComputeStepDrivesAllFourChannels :
    (sampled []).input = .compute :: [] ∧ (sampled []).tickPhase = .sampling ∧
    (sampled []).snapDone = BitVec.allOnes 26 := by decide +kernel

/-- The smallest left magnitude; none, with the smallest right one; and a NaN with a zero, and K3's speeds. -/
theorem witness_TurnPathsBypassTheMatrix :
    let s := sampled [0#32, 0#32, 0x00000001#32]
    let t := sampled [0#32, 0#32, 0#32, 0x00000001#32]
    let u := sampled [0x3F800000#32, 0x3F000000#32, 0x7FC00000#32, 0x80000000#32]
    (s.input = .compute :: [] ∧ s.tickPhase = .sampling ∧ s.snapDone = BitVec.allOnes 26 ∧
      selectMode s.params.fp (s.snapSlot 6) (s.snapSlot 7) = .directSpeed ∧ fgt s.params.fp (s.snapSlot 2) zero = true) ∧
    (t.input = .compute :: [] ∧ t.tickPhase = .sampling ∧ t.snapDone = BitVec.allOnes 26 ∧
      selectMode t.params.fp (t.snapSlot 6) (t.snapSlot 7) = .directSpeed ∧ fgt t.params.fp (t.snapSlot 2) zero = false ∧
      fgt t.params.fp (t.snapSlot 3) zero = true) ∧
    (u.input = .compute :: [] ∧ u.tickPhase = .sampling ∧ u.snapDone = BitVec.allOnes 26 ∧
      selectMode u.params.fp (u.snapSlot 6) (u.snapSlot 7) = .directSpeed ∧ fgt u.params.fp (u.snapSlot 2) zero = false ∧
      fgt u.params.fp (u.snapSlot 3) zero = false) := by decide +kernel

theorem witness_DriveAndGripperReadDifferentSlots :
    let s := sampled []
    let u := (s.snap.set 8 1#16).set 9 1#16
    let w := s.snap.set 0 1#16
    (∀ k : Fin 26, k.val ≠ 8 → k.val ≠ 9 → u[k.val] = s.snap[k.val]) ∧ w[8] = s.snap[8] ∧ w[9] = s.snap[9] := by
  decide +kernel

theorem witness_TickEntryChangesOnlyPhaseAndMask : exState.tickPhase = .idle := by decide

theorem witness_AnOverrunLatchesOnePendingTick :
    let s := { sampled [] with tickPending := true }
    s.tickPhase = .sampling ∧ s.input = .compute :: [] ∧ s.snapDone = BitVec.allOnes 26 ∧ s.tickPending = true := by
  decide +kernel

/-- The first and the last half, with either TEAR_BITS, the pose driven. -/
theorem witness_ASamplingStepReadsItsHalf :
    ∀ k ∈ [(0 : Fin 26), 19, 20, 25], ∀ tear ∈ [TearBits.b16, .b32],
      let s := { withMoves [.sample k] with tickPhase := .sampling, params := { exParams with tearBits := tear } }
      s.input = .sample k :: [] ∧ s.tickPhase = .sampling ∧ s.snapDone.getLsbD k.val = false ∧
      s.posePort = some ⟨0#32, 0#32, 0#32⟩ := by decide +kernel

/-- With either TEAR_BITS, the pose driven and not. -/
theorem witness_WithoutARaceTheSnapshotIsTheSlots :
    let moves := .event none [0x40#8] :: ((List.finRange 26).reverse.map Move.sample ++ [])
    let s := withMoves moves
    let u := { s with params := { exParams with tearBits := .b32 }, posePort := none }
    (List.finRange 26).reverse.Perm (List.finRange 26) ∧
    (s.tickPhase = .idle ∧ s.input = moves ∧ s.params.tearBits = .b16 ∧ s.posePort = some ⟨0#32, 0#32, 0#32⟩) ∧
    (u.tickPhase = .idle ∧ u.input = moves ∧ u.params.tearBits = .b32 ∧ u.posePort = none) := by
  exact ⟨List.reverse_perm _, ⟨rfl, rfl, rfl, rfl⟩, rfl, rfl, rfl, rfl⟩

/-- The last slot, its halves the last ones not sampled, so that the tick then computes and the next one samples. -/
theorem witness_ARacingReadIsTorn :
    let later := [Move.compute, .event none [0x40#8], .sample 19, .sample 18]
    let moves := .event (some .hi) (encode (slotEvent 9 1#32)) :: .sample 19 :: .sample 18 :: .hostHalf :: later
    let s := { withMoves moves with tickPhase := .sampling, snapDone := 0x3F3FFFF#26 }
    Memory.wf s.slots = true ∧ s.params.tearBits = .b16 ∧ s.hostWrite = none ∧ s.tickPhase = .sampling ∧
    (18 : Fin 26).val = 2 * (9 : Fin 10).val ∧ (19 : Fin 26).val = 2 * (9 : Fin 10).val + 1 ∧
    s.snapDone.getLsbD (18 : Fin 26).val = false ∧ s.snapDone.getLsbD (19 : Fin 26).val = false ∧ s.input = moves ∧
    (∀ k : Fin 26, k ≠ 18 → k ≠ 19 → s.snapDone.getLsbD k.val = true) ∧
    later = .compute :: .event none [0x40#8] :: .sample 19 :: .sample 18 :: [] := by
  exact ⟨by decide, rfl, rfl, rfl, rfl, rfl, by decide, by decide, rfl, by decide, rfl⟩

theorem witness_ATickInProgressAlwaysComputes :
    ({ exState with tickPhase := .sampling } : State).input = [] ∧
    ({ exState with tickPhase := .sampling } : State).tickPhase = .sampling := by decide

/-- Half 0 is not sampled yet and differs, half 1 is and does not. -/
theorem witness_UnsampledValuesAreNeverSeen :
    SameButUnsampled { exState with tickPhase := .sampling, snapDone := 2#26 }
      { exState with tickPhase := .sampling, snapDone := 2#26, snap := exState.snap.set 0 1#16 } ∧
    exState.snap ≠ exState.snap.set 0 1#16 := by
  refine ⟨⟨rfl, fun k hk => ?_⟩, by decide +kernel⟩
  have h : ∀ k : Fin 26, (2#26).getLsbD k.val = true → (exState.snap.set 0 1#16)[k.val] = exState.snap[k.val] := by
    decide +kernel
  exact h k hk.2

theorem witness_ComputeOverwritesDirectWrites :
    (sampled []).input = .compute :: [] ∧ (sampled []).tickPhase = .sampling ∧
    (sampled []).snapDone = BitVec.allOnes 26 := by decide +kernel

theorem witness_TheFirstTickAfterResetDrivesTheGripper : (List.finRange 26).reverse.Perm (List.finRange 26) := by
  exact List.reverse_perm _

theorem witness_EveryStepKeepsTheInvariant :
    ∃ t, (withMoves [.event none setLWord]).Inv ∧ step (withMoves [.event none setLWord]) = .next t := by
  exact ⟨_, ⟨by decide, by decide, fun _ => rfl, fun h => by cases h⟩, rfl⟩

theorem witness_NoStepChangesAConstant : ∃ t, step exState = .next t := by exact ⟨_, rfl⟩

theorem witness_OnlyTheHostAndResetWriteSlots :
    ∃ t, step (withMoves [.event none setLWord]) = .next t ∧ t.slots ≠ (withMoves [.event none setLWord]).slots := by
  exact ⟨_, rfl, by decide +kernel⟩

/-- SET_DUTY 3 changes its channel. -/
theorem witness_CompareRegistersKeepTheirValue :
    ∃ t, step (withMoves [.event none [0x22#8, 0x42#8, 0xC8#8, 0x00#8, 0x00#8]]) = .next t ∧
      t.cmp .gripForward ≠ exState.cmp .gripForward := by
  exact ⟨_, rfl, by decide +kernel⟩

/-- The entry by TICK_1MS, and the return by a compute step. -/
theorem witness_TickPhaseMovesOnlyByTickComputeAndReset :
    (∃ t, step (withMoves [.event none [0x40#8]]) = .next t ∧ exState.tickPhase = .idle ∧ t.tickPhase = .sampling) ∧
    (∃ t, step (sampled []) = .next t ∧ (sampled []).tickPhase = .sampling ∧ t.tickPhase = .idle) := by
  exact ⟨⟨_, rfl, rfl, rfl⟩, ⟨_, rfl, rfl, by decide +kernel⟩⟩

/-- Each clause: a count just below its end and the end itself; a SET_SLOT in one piece, a half-write scheduled and one that a
command waits for; a RESET; and a placeholder tick, which is none of these. -/
theorem witness_TicksSinceWriteCountsAndSaturates :
    ([0xFFFFFFFE#32, 0xFFFFFFFF#32].all fun n => goesOn (step { sampled [] with diagTicksSinceWrite := n }) fun _ => true) =
      true ∧
    (∀ n, ({ sampled [] with diagTicksSinceWrite := n } : State).computesNext) ∧
    (withMoves [.event none setLWord]).completesWriteNext ∧
    ({ halfWritten with input := [.hostHalf] } : State).completesWriteNext ∧
    ({ halfWritten with input := [.event none [0x10#8]] } : State).completesWriteNext ∧
    (withMoves [.event none [0x7F#8]]).resetsNext ∧
    (let s := withMoves [.event none [0x41#8]]
     step s = .next (arrive none [] s) ∧ ¬ s.computesNext ∧ ¬ s.completesWriteNext ∧ ¬ s.resetsNext) := by
  refine ⟨by decide +kernel, fun _ => ⟨rfl, rfl, .inr ⟨[], rfl⟩⟩, ?_, .inl ⟨rfl, [], rfl⟩, ?_, ⟨none, _, [], rfl, rfl⟩, rfl, ?_,
    ?_, ?_⟩
  · exact .inr ⟨none, setLWord, [], .setL 0x41A00000#32, rfl, by decide +kernel, rfl, .inr ⟨⟨2, _, rfl⟩, .inl rfl⟩⟩
  · exact .inr ⟨none, [0x10#8], [], .getStatus0, rfl, rfl, rfl, .inl rfl⟩
  · rintro ⟨h, -⟩
    cases h
  · rintro (⟨h, -⟩ | ⟨_, _, _, i, h, hd, hp, -⟩)
    · cases h
    · cases h
      cases hd
      cases hp
  · rintro ⟨_, _, _, h, hd⟩
    cases h
    cases hd

end Sys2Proof.Tests
end

section
/-! No step changes a constant of the block (00_scope.md R5; 10_state.md R28, R29). -/

namespace Sys2Proof.Machine

open Sys2Proof.Config

@[simp] theorem sampleStep_params (k : Fin 26) (s : State) : (sampleStep k s).params = s.params := by
  rw [sampleStep_frame]

@[simp] theorem sampleStep_inv (k : Fin 26) (s : State) : (sampleStep k s).inv = s.inv := by
  rw [sampleStep_frame]

/-- Two states hold the same constants: the parameters and the matrix (10_state.md R28, R29). -/
def SameConstants (t s : State) : Prop := t.params = s.params ∧ t.inv = s.inv

theorem setSlot_sameConstants (i : Fin 10) (v : F32) (s : State) : SameConstants (setSlot i v s) s := by
  rcases setSlot_cases i v s with h | ⟨_, _, _, h⟩ <;> rw [h] <;> exact ⟨rfl, rfl⟩

theorem ikGoalWith_sameConstants (g : GoalSeekFunctions) (start goal : Pose) (s : State) :
    SameConstants (ikGoalWith g start goal s) s := by
  simp [SameConstants, ikGoalWith, goalOut]

theorem compute_sameConstants (s : State) : SameConstants (compute s) s := by
  obtain ⟨-, -, hinv, hparams, -⟩ := computeWith_frame goalSeekFunctions s
  exact ⟨hparams, hinv⟩

theorem tickAgent_sameConstants (s : State) : SameConstants (tickAgent s) s := by
  unfold tickAgent
  split
  · exact ⟨rfl, rfl⟩
  · split
    · exact compute_sameConstants s
    · simp [SameConstants]

theorem agentMove_sameConstants (m : Move) (s : State) : SameConstants (agentMove m s) s := by
  cases m with
  | event split word => exact ⟨rfl, rfl⟩
  | hostHalf => exact ⟨finishHostWrite_params s, finishHostWrite_inv s⟩
  | sample k =>
    simp only [agentMove, trySample]
    split <;> simp [SameConstants]
  | compute =>
    simp only [agentMove, tryCompute]
    split
    · exact compute_sameConstants s
    · exact ⟨rfl, rfl⟩
  | pose p => exact ⟨rfl, rfl⟩

theorem exec_sameConstants (i : Instr) (s t : State) (h : exec i s = .next t) : SameConstants t s := by
  rcases exec_cases i s t h with ⟨j, v, -, rfl⟩ | ⟨k, hc, -, rfl⟩ | ⟨c, p, -, rfl⟩ | ⟨start, goal, -, rfl⟩ |
    ⟨-, ⟨-, rfl⟩ | ⟨-, rfl⟩⟩ | ⟨-, rfl⟩ | rfl
  · exact setSlot_sameConstants j v s
  · exact ⟨answerStatus_params _ s, answerStatus_inv _ s⟩
  · simp [SameConstants, setDuty]
  · exact ikGoalWith_sameConstants _ start goal s
  · exact ⟨enterTick_params s, enterTick_inv s⟩
  · exact ⟨rfl, rfl⟩
  · exact ⟨resetBlock_params s, resetBlock_inv s⟩
  · exact ⟨rfl, rfl⟩

/-- Settles O56, by the cases of a step: each agent's own operation keeps the constants. -/
theorem noStepChangesAConstant : Obligations.NoStepChangesAConstant := by
  intro s t h
  rcases step_cases s t h with ⟨-, rfl⟩ | ⟨split, word, rest, i, -, -, ⟨-, rfl⟩ | ⟨-, hexec⟩⟩ | ⟨m, rest, -, -, rfl⟩
  · exact tickAgent_sameConstants (clearPort s)
  · exact ⟨finishHostWrite_params (clearPort s), finishHostWrite_inv (clearPort s)⟩
  · exact exec_sameConstants i (arrive split rest s) t hexec
  · exact agentMove_sameConstants m (takeMove rest s)

end Sys2Proof.Machine
end

section
/-! The fields of a pattern, the operands of arithmetic taken apart, and what each primitive answers by the classes of its
operands (00_scope.md R7, R8). -/

namespace Sys2Proof.Machine

open Sys2Proof.Config

/-! ### The fields of a pattern -/

theorem magnitudeOf_lt (x : F32) : magnitudeOf x < 2 ^ 31 := Nat.mod_lt _ (by decide)

theorem exponentOf_eq (x : F32) : exponentOf x = magnitudeOf x / 2 ^ 23 := by
  simp only [exponentOf, magnitudeOf]
  omega

theorem fractionOf_eq (x : F32) : fractionOf x = magnitudeOf x % 2 ^ 23 := by
  simp only [fractionOf, magnitudeOf]
  omega

theorem isNan_iff (x : F32) : isNan x = true ↔ 0x7F800000 < magnitudeOf x := by simp [isNan]

theorem isFinite_iff (x : F32) : isFinite x = true ↔ magnitudeOf x < 0x7F800000 := by simp [isFinite]

@[simp] theorem signOf_fneg (x : F32) : signOf (fneg x) = !signOf x := by
  simp [signOf, fneg]

@[simp] theorem magnitudeOf_fneg (x : F32) : magnitudeOf (fneg x) = magnitudeOf x := by
  rw [magnitudeOf, fneg, BitVec.toNat_xor, Nat.xor_mod_two_pow]
  simp [magnitudeOf]

@[simp] theorem isNan_fneg (x : F32) : isNan (fneg x) = isNan x := by simp [isNan]

@[simp] theorem isFinite_fneg (x : F32) : isFinite (fneg x) = isFinite x := by simp [isFinite]

/-! ### Operands taken apart -/

theorem unpack_of_isNan (fp : FpSubnormal) (x : F32) (h : isNan x = true) : unpack fp x = .nan := by
  have hlt := magnitudeOf_lt x
  rw [isNan_iff] at h
  simp only [unpack, exponentOf_eq, fractionOf_eq]
  rw [if_pos (by omega), if_neg (by omega)]

/-- The significand that arithmetic reads in a finite pattern. -/
def significandOf (fp : FpSubnormal) (x : F32) : Nat :=
  if exponentOf x = 0 then (if flushesOperands fp then 0 else fractionOf x) else fractionOf x + 2 ^ 23

/-- The power of two that arithmetic reads in a finite pattern. -/
def scaleOf (x : F32) : Int := if exponentOf x = 0 then -149 else (exponentOf x : Int) - 150

theorem unpack_of_isFinite (fp : FpSubnormal) (x : F32) (h : isFinite x = true) :
    unpack fp x = .fin (signOf x) (significandOf fp x) (scaleOf x) := by
  have hexp : exponentOf x ≠ 255 := by
    rw [isFinite_iff] at h
    rw [exponentOf_eq]
    omega
  simp only [unpack, significandOf, scaleOf, if_neg hexp]
  split <;> rfl

/-- A finite pattern that the setting does not read as a zero (log entry 9). -/
theorem significandOf_ne_zero (fp : FpSubnormal) (x : F32)
    (h : 0x00800000 ≤ magnitudeOf x ∨ (flushesOperands fp = false ∧ magnitudeOf x ≠ 0)) : significandOf fp x ≠ 0 := by
  simp only [significandOf, exponentOf_eq, fractionOf_eq]
  rcases h with h | ⟨hflush, h⟩
  · rw [if_neg (by omega)]
    omega
  · rw [hflush, if_neg Bool.false_ne_true]
    split <;> omega

/-! ### What each primitive answers, by the classes of its operands

The operands are variables here: with a written-out infinity in their place the kernel would evaluate `unpack`. -/

section
variable {fp : FpSubnormal} {a b : F32} {s t : Bool} {m n : Nat} {e f : Int}

theorem addAs_inf_inf (op : Nat) (ha : unpack fp a = .inf s) (hb : unpack fp b = .inf t) :
    addAs op fp a b = if s = t then infOf s else producedNan op a b := by
  unfold addAs
  rw [ha, hb]

theorem addAs_inf_fin (op : Nat) (ha : unpack fp a = .inf s) (hb : unpack fp b = .fin t n f) :
    addAs op fp a b = infOf s := by
  unfold addAs
  rw [ha, hb]

theorem addAs_fin_inf (op : Nat) (ha : unpack fp a = .fin s m e) (hb : unpack fp b = .inf t) :
    addAs op fp a b = infOf t := by
  unfold addAs
  rw [ha, hb]

theorem addAs_fin_fin (op : Nat) (ha : unpack fp a = .fin s m e) (hb : unpack fp b = .fin t n f) :
    addAs op fp a b = addFinite fp s m e t n f := by
  unfold addAs
  rw [ha, hb]

theorem fmul_inf_inf (ha : unpack fp a = .inf s) (hb : unpack fp b = .inf t) : fmul fp a b = infOf (s ^^ t) := by
  unfold fmul
  rw [ha, hb]

theorem fmul_inf_fin (ha : unpack fp a = .inf s) (hb : unpack fp b = .fin t n f) :
    fmul fp a b = if n = 0 then producedNan 1 a b else infOf (s ^^ t) := by
  unfold fmul
  rw [ha, hb]

theorem fmul_fin_inf (ha : unpack fp a = .fin s m e) (hb : unpack fp b = .inf t) :
    fmul fp a b = if m = 0 then producedNan 1 a b else infOf (s ^^ t) := by
  unfold fmul
  rw [ha, hb]

theorem fmul_fin_fin (ha : unpack fp a = .fin s m e) (hb : unpack fp b = .fin t n f) :
    fmul fp a b = roundF32 fp (s ^^ t) (m * n) (e + f) := by
  unfold fmul
  rw [ha, hb]

theorem fdiv_inf_inf (ha : unpack fp a = .inf s) (hb : unpack fp b = .inf t) : fdiv fp a b = producedNan 2 a b := by
  unfold fdiv
  rw [ha, hb]

theorem fdiv_inf_fin (ha : unpack fp a = .inf s) (hb : unpack fp b = .fin t n f) : fdiv fp a b = infOf (s ^^ t) := by
  unfold fdiv
  rw [ha, hb]

theorem fdiv_fin_inf (ha : unpack fp a = .fin s m e) (hb : unpack fp b = .inf t) : fdiv fp a b = zeroOf (s ^^ t) := by
  unfold fdiv
  rw [ha, hb]

theorem fdiv_fin_fin (ha : unpack fp a = .fin s m e) (hb : unpack fp b = .fin t n f) :
    fdiv fp a b =
      if n = 0 then (if m = 0 then producedNan 2 a b else infOf (s ^^ t))
      else roundF32 fp (s ^^ t) (stickyQuotient m n) (e - f - 65) := by
  unfold fdiv
  rw [ha, hb]

theorem fsqrt_inf (ha : unpack fp a = .inf s) : fsqrt fp a = if s then producedNan 3 a a else infOf false := by
  unfold fsqrt
  rw [ha]

end

end Sys2Proof.Machine
end

section
/-! NaN operands, infinite operands and invalid operations (00_scope.md R8; 60_exceptions.md R202). -/

namespace Sys2Proof.Machine

open Sys2Proof.Config

@[simp] theorem isQuietNan_producedNan (op : Nat) (a b : F32) : isQuietNan (producedNan op a b) = true := by
  simp [isQuietNan]

theorem addAs_of_isNan (op : Nat) (fp : FpSubnormal) (a b : F32) (h : isNan a = true ∨ isNan b = true) :
    addAs op fp a b = producedNan op a b := by
  unfold addAs
  rcases h with h | h
  · rw [unpack_of_isNan fp a h]
  · rw [unpack_of_isNan fp b h]
    cases unpack fp a <;> rfl

theorem fmul_of_isNan (fp : FpSubnormal) (a b : F32) (h : isNan a = true ∨ isNan b = true) :
    fmul fp a b = producedNan 1 a b := by
  unfold fmul
  rcases h with h | h
  · rw [unpack_of_isNan fp a h]
  · rw [unpack_of_isNan fp b h]
    cases unpack fp a <;> rfl

theorem fdiv_of_isNan (fp : FpSubnormal) (a b : F32) (h : isNan a = true ∨ isNan b = true) :
    fdiv fp a b = producedNan 2 a b := by
  unfold fdiv
  rcases h with h | h
  · rw [unpack_of_isNan fp a h]
  · rw [unpack_of_isNan fp b h]
    cases unpack fp a <;> rfl

theorem fsqrt_of_isNan (fp : FpSubnormal) (a : F32) (h : isNan a = true) : fsqrt fp a = producedNan 3 a a := by
  unfold fsqrt
  rw [unpack_of_isNan fp a h]

/-- Arithmetic with a NaN operand gives a quiet NaN (00_scope.md R8). -/
theorem arithmetic_of_isNan (fp : FpSubnormal) (a b : F32) (h : isNan a = true ∨ isNan b = true) :
    isQuietNan (fadd fp a b) = true ∧ isQuietNan (fsub fp a b) = true ∧ isQuietNan (fmul fp a b) = true ∧
      isQuietNan (fdiv fp a b) = true := by
  have hsub : isNan a = true ∨ isNan (fneg b) = true := by rwa [isNan_fneg]
  rw [fadd, fsub, addAs_of_isNan _ fp a b h, addAs_of_isNan _ fp a _ hsub, fmul_of_isNan fp a b h, fdiv_of_isNan fp a b h]
  simp

/-- A NaN is unordered with every pattern (00_scope.md R8). -/
theorem comparisons_of_isNan (fp : FpSubnormal) (a b : F32) (h : isNan a = true ∨ isNan b = true) :
    flt fp a b = false ∧ fgt fp a b = false ∧ feq fp a b = false ∧ fne fp a b = true := by
  rcases h with h | h <;> simp [fgt, fne, flt, feq, h]

/-- The invalid products and quotients of zeros and infinities. -/
theorem invalid_products_and_quotients (fp : FpSubnormal) (s t : Bool) :
    isQuietNan (fmul fp (zeroOf s) (infOf t)) = true ∧ isQuietNan (fmul fp (infOf s) (zeroOf t)) = true ∧
      isQuietNan (fdiv fp (zeroOf s) (zeroOf t)) = true ∧ isQuietNan (fdiv fp (infOf s) (infOf t)) = true := by
  rw [fmul_fin_inf (unpack_zeroOf fp s) (unpack_infOf fp t), fmul_inf_fin (unpack_infOf fp s) (unpack_zeroOf fp t),
    fdiv_fin_fin (unpack_zeroOf fp s) (unpack_zeroOf fp t), fdiv_inf_inf (unpack_infOf fp s) (unpack_infOf fp t)]
  simp

/-- Infinities of unlike signs have no sum, and of like signs no difference. -/
theorem invalid_sum_and_difference (fp : FpSubnormal) (s : Bool) :
    isQuietNan (fadd fp (infOf s) (infOf !s)) = true ∧ isQuietNan (fsub fp (infOf s) (infOf s)) = true := by
  rw [fadd, fsub, fneg_infOf, addAs_inf_inf 0 (unpack_infOf fp s) (unpack_infOf fp !s),
    addAs_inf_inf 4 (unpack_infOf fp s) (unpack_infOf fp !s)]
  simp

theorem fsqrt_infOf (fp : FpSubnormal) :
    isQuietNan (fsqrt fp (infOf true)) = true ∧ fsqrt fp (infOf false) = infOf false := by
  rw [fsqrt_inf (unpack_infOf fp true), fsqrt_inf (unpack_infOf fp false)]
  simp

/-- The valid sums, differences and products of two infinities. -/
theorem arithmetic_infOf_infOf (fp : FpSubnormal) (s t : Bool) :
    fadd fp (infOf s) (infOf s) = infOf s ∧ fsub fp (infOf s) (infOf !s) = infOf s ∧
      fmul fp (infOf s) (infOf t) = infOf (s ^^ t) := by
  rw [fadd, fsub, fneg_infOf, Bool.not_not, addAs_inf_inf 0 (unpack_infOf fp s) (unpack_infOf fp s),
    addAs_inf_inf 4 (unpack_infOf fp s) (unpack_infOf fp s)]
  exact ⟨if_pos rfl, if_pos rfl, fmul_inf_inf (unpack_infOf fp s) (unpack_infOf fp t)⟩

/-- Sums, products and quotients of an infinity and a finite number, in both orders. -/
theorem arithmetic_infOf_of_isFinite (fp : FpSubnormal) (s : Bool) (b : F32) (h : isFinite b = true) :
    fadd fp (infOf s) b = infOf s ∧ fadd fp b (infOf s) = infOf s ∧ fsub fp (infOf s) b = infOf s ∧
      fsub fp b (infOf s) = infOf (!s) ∧ fdiv fp (infOf s) b = infOf (s ^^ signOf b) ∧
      fdiv fp b (infOf s) = zeroOf (signOf b ^^ s) ∧
      (0x00800000 ≤ magnitudeOf b ∨ (flushesOperands fp = false ∧ magnitudeOf b ≠ 0) →
        fmul fp (infOf s) b = infOf (s ^^ signOf b) ∧ fmul fp b (infOf s) = infOf (signOf b ^^ s)) := by
  have hinf := unpack_infOf fp s
  have hb := unpack_of_isFinite fp b h
  have hneg := unpack_of_isFinite fp (fneg b) (by rwa [isFinite_fneg])
  refine ⟨addAs_inf_fin 0 hinf hb, addAs_fin_inf 0 hb hinf, addAs_inf_fin 4 hinf hneg, ?_, fdiv_inf_fin hinf hb,
    fdiv_fin_inf hb hinf, fun hfactor => ?_⟩
  · rw [fsub, fneg_infOf]
    exact addAs_fin_inf 4 hb (unpack_infOf fp !s)
  · have hne := significandOf_ne_zero fp b hfactor
    rw [fmul_inf_fin hinf hb, fmul_fin_inf hb hinf, if_neg hne, if_neg hne]
    exact ⟨rfl, rfl⟩

/-- Settles O27, by the classes of the operands: each primitive says what it answers on them. -/
theorem invalidOperationsGiveQuietNans : Obligations.InvalidOperationsGiveQuietNans := by
  intro fp a b
  refine ⟨fun h => ?_, fun h => ?_, invalid_sum_and_difference fp, invalid_products_and_quotients fp,
    ⟨rfl, rfl, rfl, rfl⟩, fsqrt_infOf fp, arithmetic_infOf_infOf fp,
    fun h s => arithmetic_infOf_of_isFinite fp s b h, rfl⟩
  · obtain ⟨hadd, hsub, hmul, hdiv⟩ := arithmetic_of_isNan fp a b h
    exact ⟨hadd, hsub, hmul, hdiv, comparisons_of_isNan fp a b h⟩
  · rw [fsqrt_of_isNan fp a h, isQuietNan_producedNan]

end Sys2Proof.Machine
end

section
/-! Magnitude patterns as numbers of units of 2^-149, and what `roundMagnitude` does to every midpoint of two neighbouring
patterns (00_scope.md R7, R8). -/

namespace Sys2Proof.Machine

open Sys2Proof.Config

/-! ### Magnitudes in units of 2^-149 -/

/-- The last place of the magnitude pattern `a`, as a power of two of units of 2^-149. -/
def placeOf (a : Nat) : Nat := a / 2 ^ 23 - 1

/-- How many units of 2^-149 the magnitude pattern `a` stands for; an infinity's counts as 2^128. -/
def unitsOf (a : Nat) : Nat := (a - placeOf a * 2 ^ 23) * 2 ^ placeOf a

/-- A pattern is its place and at most 24 significant bits, 24 of them unless it is in the lowest place. -/
theorem exists_eq_place_add (a : Nat) :
    ∃ n, a = placeOf a * 2 ^ 23 + n ∧ n < 2 ^ 24 ∧ (placeOf a = 0 ∨ 2 ^ 23 ≤ n) := by
  refine ⟨a - placeOf a * 2 ^ 23, ?_⟩
  simp only [placeOf]
  omega

/-- A carry out of the fraction lands in the exponent: `n` may be 2^24. -/
theorem unitsOf_place_add (k n : Nat) (hn : n ≤ 2 ^ 24) (hk : k = 0 ∨ 2 ^ 23 ≤ n) :
    unitsOf (k * 2 ^ 23 + n) = n * 2 ^ k := by
  rcases Nat.lt_or_eq_of_le hn with hlt | rfl
  · have hplace : placeOf (k * 2 ^ 23 + n) = k := by simp only [placeOf]; omega
    rw [unitsOf, hplace, Nat.add_sub_cancel_left]
  · have hplace : placeOf (k * 2 ^ 23 + 2 ^ 24) = k + 1 := by simp only [placeOf]; omega
    rw [unitsOf, hplace, show k * 2 ^ 23 + 2 ^ 24 - (k + 1) * 2 ^ 23 = 2 ^ 23 by omega, pow_succ 2 k]
    ring

theorem unitsOf_succ (a : Nat) : unitsOf (a + 1) = unitsOf a + 2 ^ placeOf a := by
  obtain ⟨n, ha, hn, hk⟩ := exists_eq_place_add a
  generalize placeOf a = k at ha hk ⊢
  rw [ha, Nat.add_assoc, unitsOf_place_add k n (by omega) hk, unitsOf_place_add k (n + 1) (by omega) (by omega)]
  ring

theorem unitsOf_strictMono : StrictMono unitsOf :=
  strictMono_nat_of_lt_succ fun a => by
    rw [unitsOf_succ]
    exact Nat.lt_add_of_pos_right (Nat.two_pow_pos _)

/-- Twice the midpoint of `a` and the next pattern, in units of 2^-149. -/
def halfwayOf (a : Nat) : Nat := unitsOf a + unitsOf (a + 1)

theorem halfwayOf_strictMono : StrictMono halfwayOf :=
  fun _ _ h => Nat.add_lt_add (unitsOf_strictMono h) (unitsOf_strictMono (Nat.succ_lt_succ h))

/-! ### Rounding by a shift -/

theorem le_roundShift (c n d : Nat) (h : c * 2 ^ d ≤ n) : c ≤ roundShift n d := by
  have hnear := (roundShift_near n d).1
  by_contra! hlt
  have hmul := Nat.mul_le_mul_right (2 ^ d) hlt
  have hpos := Nat.two_pow_pos d
  rw [Nat.succ_mul] at hmul
  omega

theorem roundShift_le (c n d : Nat) (h : n ≤ c * 2 ^ d) : roundShift n d ≤ c := by
  have hnear := (roundShift_near n d).2
  by_contra! hlt
  have hmul := Nat.mul_le_mul_right (2 ^ d) hlt
  have hpos := Nat.two_pow_pos d
  rw [Nat.succ_mul] at hmul
  omega

/-- A number halfway between two integers goes to the even one. -/
theorem roundShift_tie_even (n d : Nat)
    (h : 2 * n = 2 * (roundShift n d * 2 ^ d) + 2 ^ d ∨ 2 * (roundShift n d * 2 ^ d) = 2 * n + 2 ^ d) :
    roundShift n d % 2 = 0 := by
  cases d with
  | zero => omega
  | succ d =>
    have hdiv := Nat.div_add_mod n (2 ^ (d + 1))
    have hlt := Nat.mod_lt n (Nat.two_pow_pos (d + 1))
    have hpos := Nat.two_pow_pos d
    have hpow : 2 ^ (d + 1) = 2 * 2 ^ d := by rw [Nat.pow_succ, Nat.mul_comm]
    generalize hq : n / 2 ^ (d + 1) = q at *
    generalize hr : n % 2 ^ (d + 1) = r at *
    simp only [roundShift, hq, hr, Nat.add_sub_cancel, if_neg (Nat.succ_ne_zero d)] at h ⊢
    rw [Nat.mul_comm, hpow] at hdiv
    rw [hpow] at h hlt
    split at h
    · rw [show (q + 1) * (2 * 2 ^ d) = q * (2 * 2 ^ d) + 2 * 2 ^ d by ring] at h
      omega
    · split at h
      · rw [if_neg (by assumption), if_pos (by assumption)]
        omega
      · omega

/-! ### The rounded pattern against every midpoint -/

section
variable {n d k : Nat} (hlt : n < 2 ^ 24 * 2 ^ d) (hk : k = 0 ∨ 2 ^ 23 * 2 ^ d ≤ n)
include hlt hk

theorem unitsOf_rounded : unitsOf (k * 2 ^ 23 + roundShift n d) = roundShift n d * 2 ^ k :=
  unitsOf_place_add k _ (roundShift_le _ n d hlt.le) (hk.imp_right (le_roundShift _ n d))

/-- The number is not above the midpoint over its rounded pattern, and on it only if that pattern is even. -/
theorem le_halfwayOf_rounded :
    2 * n * 2 ^ k ≤ halfwayOf (k * 2 ^ 23 + roundShift n d) * 2 ^ d ∧
      (2 * n * 2 ^ k = halfwayOf (k * 2 ^ 23 + roundShift n d) * 2 ^ d → (k * 2 ^ 23 + roundShift n d) % 2 = 0) := by
  have hunits := unitsOf_rounded hlt hk
  have hnear := (roundShift_near n d).1
  have htie := roundShift_tie_even n d
  have hr := hk.imp_right (le_roundShift _ n d)
  generalize roundShift n d = r at *
  have hplace : 2 ^ k ≤ 2 ^ placeOf (k * 2 ^ 23 + r) :=
    Nat.pow_le_pow_right two_pos (by simp only [placeOf]; omega)
  have hscaled := Nat.mul_le_mul_right (2 ^ k) hnear
  have hbound : (2 * (r * 2 ^ d) + 2 ^ d) * 2 ^ k ≤ halfwayOf (k * 2 ^ 23 + r) * 2 ^ d := by
    rw [halfwayOf, unitsOf_succ, hunits]
    calc (2 * (r * 2 ^ d) + 2 ^ d) * 2 ^ k = (r * 2 ^ k + (r * 2 ^ k + 2 ^ k)) * 2 ^ d := by ring
      _ ≤ _ := by gcongr
  refine ⟨hscaled.trans hbound, fun heq => ?_⟩
  have := htie (.inl (Nat.eq_of_mul_eq_mul_right (Nat.two_pow_pos k) (by omega)))
  omega

/-- The number is not below the midpoint under its rounded pattern, and on it only if that pattern is even. -/
theorem halfwayOf_pred_rounded_le (b : Nat) (hb : b + 1 = k * 2 ^ 23 + roundShift n d) :
    halfwayOf b * 2 ^ d ≤ 2 * n * 2 ^ k ∧ (halfwayOf b * 2 ^ d = 2 * n * 2 ^ k → (b + 1) % 2 = 0) := by
  have hunits := unitsOf_rounded hlt hk
  have hnear := (roundShift_near n d).2
  have htie := roundShift_tie_even n d
  have hr := hk.imp_right (le_roundShift _ n d)
  have hcarry := roundShift_le _ n d hlt.le
  generalize roundShift n d = r at *
  have hsum : halfwayOf b * 2 ^ d + 2 ^ placeOf b * 2 ^ d = 2 * (r * 2 ^ d) * 2 ^ k := by
    have hsucc := unitsOf_succ b
    rw [hb, hunits] at hsucc
    rw [halfwayOf, hb, hunits, ← Nat.add_mul, Nat.add_right_comm, ← hsucc]
    ring
  have hpos : 0 < 2 ^ placeOf b * 2 ^ d := by positivity
  by_cases hplace : placeOf b = k
  · have hscaled := Nat.mul_le_mul_right (2 ^ k) hnear
    rw [hplace, Nat.mul_comm (2 ^ k)] at hsum
    rw [Nat.add_mul] at hscaled
    refine ⟨by omega, fun heq => ?_⟩
    have := htie (.inr (Nat.eq_of_mul_eq_mul_right (Nat.two_pow_pos k) (by rw [Nat.add_mul]; omega)))
    omega
  · obtain ⟨rfl, hle⟩ : r = 2 ^ 23 ∧ 2 ^ 23 * 2 ^ d ≤ n := by
      simp only [placeOf] at hplace
      omega
    have hscaled := Nat.mul_le_mul_right (2 * 2 ^ k) hle
    rw [show 2 ^ 23 * 2 ^ d * (2 * 2 ^ k) = 2 * (2 ^ 23 * 2 ^ d) * 2 ^ k by ring, ← hsum,
      show n * (2 * 2 ^ k) = 2 * n * 2 ^ k by ring] at hscaled
    omega

/-- The patterns below the rounded one are those whose upper midpoint the number passes, a tie going to the even one. -/
theorem lt_rounded_iff (a : Nat) :
    a < k * 2 ^ 23 + roundShift n d ↔
      halfwayOf a * 2 ^ d < 2 * n * 2 ^ k ∨ (halfwayOf a * 2 ^ d = 2 * n * 2 ^ k ∧ a % 2 = 1) := by
  have hpos := Nat.two_pow_pos d
  constructor
  · intro ha
    obtain ⟨b, hb⟩ := Nat.exists_eq_succ_of_ne_zero (Nat.ne_zero_of_lt ha)
    obtain ⟨hle, heven⟩ := halfwayOf_pred_rounded_le hlt hk b hb.symm
    rcases Nat.lt_or_eq_of_le (show a ≤ b by omega) with hab | rfl
    · exact .inl (Nat.lt_of_lt_of_le (Nat.mul_lt_mul_of_pos_right (halfwayOf_strictMono hab) hpos) hle)
    · refine (Nat.lt_or_eq_of_le hle).imp_right fun heq => ⟨heq, ?_⟩
      have := heven heq
      omega
  · intro h
    by_contra! ha
    obtain ⟨hle, heven⟩ := le_halfwayOf_rounded hlt hk
    have hmono := Nat.mul_le_mul_right (2 ^ d) (halfwayOf_strictMono.monotone ha)
    rcases h with h | ⟨heq, hodd⟩
    · omega
    · have heq' : halfwayOf a = halfwayOf (k * 2 ^ 23 + roundShift n d) := Nat.eq_of_mul_eq_mul_right hpos (by omega)
      have ha' := halfwayOf_strictMono.injective heq'
      have := heven (by rw [← ha', heq])
      omega

end

end Sys2Proof.Machine
end

section
/-! Rounding once to nearest, ties to even, as a statement about midpoints, and which numbers `roundMagnitude` rounds
(00_scope.md R8). The numbers are those of any ordered field: the rationals, and the reals for square roots. -/

namespace Sys2Proof.Machine

open Sys2Proof.Config

section
variable {K : Type} [Field K] [LinearOrder K] [IsStrictOrderedRing K]

/-- The number that the magnitude pattern `a` stands for; an infinity's counts as 2^128. -/
def numberOf (a : Nat) : K := (unitsOf a : K) * 2 ^ (-149 : ℤ)

/-- Halfway between the magnitude pattern `a` and the next one. -/
def midpointOf (a : Nat) : K := (halfwayOf a : K) * 2 ^ (-150 : ℤ)

/-- `mag` is the magnitude pattern of `w` rounded to nearest even: the patterns below it are those whose upper midpoint `w`
passes, a tie going to the even one. -/
def RoundsTo (mag : Nat) (w : K) : Prop :=
  mag ≤ 0x7F800000 ∧ ∀ a < 0x7F800000, a < mag ↔ midpointOf a < w ∨ (midpointOf a = w ∧ a % 2 = 1)

theorem numberOf_strictMono : StrictMono (numberOf : Nat → K) := fun _ _ h =>
  mul_lt_mul_of_pos_right (Nat.cast_lt.2 (unitsOf_strictMono h)) (by positivity)

theorem midpointOf_strictMono : StrictMono (midpointOf : Nat → K) := fun _ _ h =>
  mul_lt_mul_of_pos_right (Nat.cast_lt.2 (halfwayOf_strictMono h)) (by positivity)

@[simp] theorem numberOf_zero : (numberOf 0 : K) = 0 := by simp [numberOf, unitsOf]

theorem numberOf_nonneg (a : Nat) : (0 : K) ≤ numberOf a := by
  simpa using (numberOf_strictMono (K := K)).monotone a.zero_le

theorem midpointOf_eq (a : Nat) : (midpointOf a : K) = (numberOf a + numberOf (a + 1)) / 2 := by
  rw [midpointOf, halfwayOf, numberOf, numberOf, show (-149 : ℤ) = -150 + 1 by rfl, zpow_add_one₀ two_ne_zero]
  push_cast
  ring

theorem midpointOf_pos (a : Nat) : (0 : K) < midpointOf a := by
  have hlt := numberOf_strictMono (K := K) (Nat.lt_succ_self a)
  have := numberOf_nonneg (K := K) a
  rw [midpointOf_eq]
  linarith

theorem roundsTo_zero : RoundsTo 0 (0 : K) :=
  ⟨by decide, fun a _ => by simp [(midpointOf_pos (K := K) a).not_gt, (midpointOf_pos (K := K) a).ne']⟩

/-- A midpoint against `n / 2^d` units of the place `k`. -/
theorem midpointOf_compare (a n d k : Nat) :
    ((midpointOf a : K) < (2 * n * 2 ^ k : Nat) * 2 ^ (-150 - (d : ℤ)) ↔ halfwayOf a * 2 ^ d < 2 * n * 2 ^ k) ∧
      ((midpointOf a : K) = (2 * n * 2 ^ k : Nat) * 2 ^ (-150 - (d : ℤ)) ↔ halfwayOf a * 2 ^ d = 2 * n * 2 ^ k) := by
  have hunit : (0 : K) < 2 ^ (-150 - (d : ℤ)) := by positivity
  have hmid : (midpointOf a : K) = (halfwayOf a * 2 ^ d : Nat) * 2 ^ (-150 - (d : ℤ)) := by
    rw [midpointOf, zpow_sub₀ two_ne_zero, zpow_natCast]
    push_cast
    field_simp
  rw [hmid, mul_lt_mul_iff_left₀ hunit, mul_left_inj' hunit.ne', Nat.cast_lt, Nat.cast_inj]
  exact ⟨Iff.rfl, Iff.rfl⟩

theorem lastPlace_cases (m : Nat) (e : Int) :
    -149 ≤ lastPlace m e ∧ (m.log2 : Int) + e - 23 ≤ lastPlace m e ∧
      (lastPlace m e = -149 ∨ lastPlace m e = (m.log2 : Int) + e - 23) := by
  simp only [lastPlace]
  omega

/-- In its last place a number has at most 24 significant bits, and 24 of them above the lowest place. -/
theorem significand_in_lastPlace (m : Nat) (e : Int) (hm : m ≠ 0) :
    m * 2 ^ (e - lastPlace m e).toNat < 2 ^ 24 * 2 ^ (lastPlace m e - e).toNat ∧
      ((lastPlace m e + 149).toNat = 0 ∨
        2 ^ 23 * 2 ^ (lastPlace m e - e).toNat ≤ m * 2 ^ (e - lastPlace m e).toNat) := by
  obtain ⟨-, hle, hcases⟩ := lastPlace_cases m e
  have hlog : 2 ^ m.log2 ≤ m := Nat.log2_self_le hm
  have hlog' : m < 2 ^ (m.log2 + 1) := Nat.lt_log2_self
  generalize lastPlace m e = q at hle hcases ⊢
  constructor
  · calc m * 2 ^ (e - q).toNat < 2 ^ (m.log2 + 1) * 2 ^ (e - q).toNat := by gcongr
      _ ≤ 2 ^ 24 * 2 ^ (q - e).toNat := by
        rw [← pow_add, ← pow_add]
        exact Nat.pow_le_pow_right two_pos (by omega)
  · refine hcases.imp (fun h => by omega) fun h => ?_
    calc 2 ^ 23 * 2 ^ (q - e).toNat ≤ 2 ^ m.log2 * 2 ^ (e - q).toNat := by
          rw [← pow_add, ← pow_add]
          exact Nat.pow_le_pow_right two_pos (by omega)
      _ ≤ m * 2 ^ (e - q).toNat := by gcongr

/-- `roundMagnitude` rounds the number it is given. -/
theorem roundsTo_roundMagnitude (m : Nat) (e : Int) : RoundsTo (roundMagnitude m e) ((m : K) * 2 ^ e) := by
  refine ⟨roundMagnitude_le m e, fun a ha => ?_⟩
  by_cases hm : m = 0
  · subst hm
    simpa [roundMagnitude] using (roundsTo_zero (K := K)).2 a ha
  obtain ⟨hlt, hk⟩ := significand_in_lastPlace m e hm
  simp only [roundMagnitude, if_neg hm, lt_min_iff, ha, and_true]
  rw [lt_rounded_iff hlt hk a]
  have hge := (lastPlace_cases m e).1
  generalize lastPlace m e = q at hge ⊢
  have hexp : e = 1 + ((e - q).toNat : ℤ) + ((q + 149).toNat : ℤ) + (-150 - ((q - e).toNat : ℤ)) := by omega
  generalize (e - q).toNat = p, (q + 149).toNat = k, (q - e).toNat = d at hexp ⊢
  have hnum : (m : K) * 2 ^ e = (2 * (m * 2 ^ p) * 2 ^ k : Nat) * 2 ^ (-150 - (d : ℤ)) := by
    rw [hexp, zpow_add₀ two_ne_zero, zpow_add₀ two_ne_zero, zpow_add₀ two_ne_zero, zpow_natCast, zpow_natCast]
    push_cast
    ring
  obtain ⟨hlt_iff, heq_iff⟩ := midpointOf_compare (K := K) a (m * 2 ^ p) d k
  rw [hnum, hlt_iff, heq_iff]

/-! ### A number known up to its last, sticky bit -/

/-- `m` units of `2^e` stand for `w` up to their last bit: on every even count of units, `m` and `w` agree which is larger. -/
def StandsFor (m : Nat) (e : Int) (w : K) : Prop :=
  ∀ k : Nat, ((k : K) * 2 ^ (e + 1) < w ↔ 2 * k < m) ∧ ((k : K) * 2 ^ (e + 1) = w ↔ 2 * k = m)

/-- Every midpoint is an even count of units or lies below 26 bits of them. -/
theorem midpointOf_even_or_small (a : Nat) (e : Int) :
    (∃ k : Nat, (midpointOf a : K) = k * 2 ^ (e + 1)) ∨ (midpointOf a : K) < (2 ^ 24 : Nat) * 2 ^ (e + 1) := by
  obtain ⟨n, ha, hn, -⟩ := exists_eq_place_add a
  have hmid : (midpointOf a : K) = (2 * n + 1 : Nat) * 2 ^ ((placeOf a : ℤ) - 150) := by
    have hunits : unitsOf a = n * 2 ^ placeOf a := by rw [unitsOf, Nat.sub_eq_of_eq_add' ha]
    rw [midpointOf, halfwayOf, unitsOf_succ, hunits, sub_eq_add_neg, zpow_add₀ two_ne_zero, zpow_natCast]
    push_cast
    ring
  rw [hmid]
  rcases le_or_gt (e + 1) ((placeOf a : ℤ) - 150) with hle | hgt
  · refine .inl ⟨(2 * n + 1) * 2 ^ ((placeOf a : ℤ) - 150 - (e + 1)).toNat, ?_⟩
    have hexp : (placeOf a : ℤ) - 150 = (((placeOf a : ℤ) - 150 - (e + 1)).toNat : ℤ) + (e + 1) := by omega
    generalize ((placeOf a : ℤ) - 150 - (e + 1)).toNat = p at hexp ⊢
    rw [hexp, zpow_add₀ two_ne_zero, zpow_natCast]
    push_cast
    ring
  · refine .inr ?_
    calc ((2 * n + 1 : Nat) : K) * 2 ^ ((placeOf a : ℤ) - 150) < (2 ^ 25 : Nat) * 2 ^ ((placeOf a : ℤ) - 150) :=
          mul_lt_mul_of_pos_right (Nat.cast_lt.2 (by omega)) (by positivity)
      _ ≤ (2 ^ 25 : Nat) * 2 ^ e :=
          mul_le_mul_of_nonneg_left (zpow_le_zpow_right₀ one_le_two (by omega)) (by positivity)
      _ = (2 ^ 24 : Nat) * 2 ^ (e + 1) := by
        rw [zpow_add_one₀ two_ne_zero]
        push_cast
        ring

theorem standsFor_exact (m : Nat) (e : Int) : StandsFor m e ((m : K) * 2 ^ e) := by
  intro k
  have hpos : (0 : K) < 2 ^ e := by positivity
  have heven : (k : K) * 2 ^ (e + 1) = (2 * k : Nat) * 2 ^ e := by
    rw [zpow_add_one₀ two_ne_zero]
    push_cast
    ring
  rw [heven, mul_lt_mul_iff_left₀ hpos, mul_left_inj' hpos.ne', Nat.cast_lt, Nat.cast_inj]
  exact ⟨Iff.rfl, Iff.rfl⟩

/-- With more than 25 bits before the sticky one, rounding `m` units of `2^e` rounds the number they stand for. -/
theorem roundsTo_of_standsFor {m : Nat} {e : Int} {w : K} (hm : 2 ^ 25 < m) (hw : StandsFor m e w) :
    RoundsTo (roundMagnitude m e) w := by
  have hexact := standsFor_exact (K := K) m e
  obtain ⟨hle, hiff⟩ := roundsTo_roundMagnitude (K := K) m e
  refine ⟨hle, fun a ha => ?_⟩
  rw [hiff a ha]
  rcases midpointOf_even_or_small (K := K) a e with ⟨k, hk⟩ | hsmall
  · rw [hk, (hw k).1, (hw k).2, (hexact k).1, (hexact k).2]
  · have hlt := hsmall.trans (((hw (2 ^ 24)).1).2 (by omega))
    have hlt' := hsmall.trans (((hexact (2 ^ 24)).1).2 (by omega))
    simp [hlt, hlt']

end

end Sys2Proof.Machine
end

section
/-! From rounded magnitudes to correctly rounded patterns: the number a pattern stands for, and what being rounded says about
every other number of the format (00_scope.md R7, R8). -/

namespace Sys2Proof.Machine

open Sys2Proof.Config

/-! ### The number a pattern stands for -/

/-- The factor of a sign. -/
def signFactor (s : Bool) : ℚ := if s then -1 else 1

theorem signFactor_xor (s t : Bool) : signFactor (s ^^ t) = signFactor s * signFactor t := by
  cases s <;> cases t <;> simp [signFactor]

theorem signFactor_div (s t : Bool) : signFactor s / signFactor t = signFactor (s ^^ t) := by
  cases s <;> cases t <;> simp [signFactor]

@[simp] theorem signFactor_mul_self (s : Bool) : signFactor s * signFactor s = 1 := by cases s <;> simp [signFactor]

@[simp] theorem abs_signFactor (s : Bool) : |signFactor s| = 1 := by cases s <;> simp [signFactor]

theorem signFactor_ne_zero (s : Bool) : signFactor s ≠ 0 := by cases s <;> simp [signFactor]

/-- A finite pattern in exponent 0 counts units of 2^-149 by its fraction, every other one has the implicit bit. -/
theorem unitsOf_magnitudeOf (x : F32) :
    unitsOf (magnitudeOf x) =
      if exponentOf x = 0 then fractionOf x else (2 ^ 23 + fractionOf x) * 2 ^ (exponentOf x - 1) := by
  have hfrac : fractionOf x < 2 ^ 23 := Nat.mod_lt _ (by decide)
  have hmag : magnitudeOf x = exponentOf x * 2 ^ 23 + fractionOf x := by
    rw [exponentOf_eq, fractionOf_eq]
    omega
  split
  next hexp => simpa [hmag, hexp] using unitsOf_place_add 0 (fractionOf x) (by omega) (.inl rfl)
  next hexp =>
    have hn : 2 ^ 23 + fractionOf x ≤ 2 ^ 24 := by omega
    obtain ⟨k, hk⟩ := Nat.exists_eq_succ_of_ne_zero hexp
    rw [hmag, hk, Nat.succ_sub_one, Nat.succ_mul, Nat.add_assoc]
    exact unitsOf_place_add k (2 ^ 23 + fractionOf x) hn (.inr (Nat.le_add_right _ _))

theorem valueOf_eq (x : F32) : valueOf x = signFactor (signOf x) * numberOf (magnitudeOf x) := by
  rw [valueOf, signFactor, numberOf, unitsOf_magnitudeOf]
  congr 1
  split
  · rfl
  next hexp =>
    have hscale : (exponentOf x : ℤ) - 150 = ((exponentOf x - 1 : Nat) : ℤ) + -149 := by omega
    rw [hscale, zpow_add₀ two_ne_zero, zpow_natCast]
    push_cast
    ring

/-- Whatever its sign is compared with, a pattern is its magnitude's number or the negative of it. -/
theorem signFactor_mul_valueOf (s : Bool) (x : F32) :
    signFactor s * valueOf x = numberOf (magnitudeOf x) ∨ signFactor s * valueOf x = -numberOf (magnitudeOf x) := by
  rw [valueOf_eq]
  cases s <;> cases signOf x <;> simp [signFactor]

theorem valueOf_fneg (x : F32) : valueOf (fneg x) = -valueOf x := by
  rw [valueOf_eq, valueOf_eq, signOf_fneg, magnitudeOf_fneg]
  cases signOf x <;> simp [signFactor]

/-- Under IEEE arithmetic reads an operand's own number. -/
theorem valueOf_eq_significandOf (x : F32) :
    valueOf x = signFactor (signOf x) * (significandOf .ieee x * 2 ^ scaleOf x) := by
  simp only [valueOf, signFactor, significandOf, scaleOf, flushesOperands]
  by_cases hexp : exponentOf x = 0 <;> simp [hexp, add_comm]

theorem significandOf_lt (fp : FpSubnormal) (x : F32) : significandOf fp x < 2 ^ 24 := by
  have hfrac : fractionOf x < 2 ^ 23 := Nat.mod_lt _ (by decide)
  unfold significandOf
  split
  · split <;> omega
  · omega

theorem valueOf_eq_zero_iff (x : F32) : valueOf x = 0 ↔ significandOf .ieee x = 0 := by
  have hscale : (2 : ℚ) ^ scaleOf x ≠ 0 := zpow_ne_zero _ two_ne_zero
  simp [valueOf_eq_significandOf, signFactor_ne_zero, hscale]

/-! ### A rounded magnitude against the other numbers of the format -/

section
variable {K : Type} [Field K] [LinearOrder K] [IsStrictOrderedRing K] {mag b : Nat} {w z : K}

/-- A rounded number is not below the midpoint with a smaller number of the format, and on it only if the result is even. -/
theorem RoundsTo.midpoint_le (h : RoundsTo mag w) (hw : 0 ≤ w) (hz : z = numberOf b ∨ z = -numberOf b)
    (hlt : z < numberOf mag) : (z + numberOf mag) / 2 ≤ w ∧ ((z + numberOf mag) / 2 = w → mag % 2 = 0) := by
  cases mag with
  | zero =>
    rw [numberOf_zero] at hlt ⊢
    exact ⟨by linarith, fun _ => rfl⟩
  | succ c =>
    have hle : z ≤ numberOf c := by
      rcases hz with rfl | rfl
      · exact numberOf_strictMono.monotone (Nat.lt_succ_iff.1 (numberOf_strictMono.lt_iff_lt.1 hlt))
      · linarith [numberOf_nonneg (K := K) b, numberOf_nonneg (K := K) c]
    have hmid := midpointOf_eq (K := K) c
    rcases (h.2 c (Nat.lt_of_succ_le h.1)).1 (Nat.lt_succ_self c) with hpass | ⟨heq, hodd⟩
    · exact ⟨by linarith, fun htie => by linarith⟩
    · exact ⟨by linarith, fun _ => by omega⟩

/-- A rounded number is not above the midpoint with a greater number of the format, and on it only if the result is even. -/
theorem RoundsTo.le_midpoint (h : RoundsTo mag w) (hmag : mag < 0x7F800000) (hz : z = numberOf b ∨ z = -numberOf b)
    (hlt : numberOf mag < z) : w ≤ (z + numberOf mag) / 2 ∧ ((z + numberOf mag) / 2 = w → mag % 2 = 0) := by
  have hle : numberOf (mag + 1) ≤ z := by
    rcases hz with rfl | rfl
    · exact numberOf_strictMono.monotone (Nat.succ_le_iff.2 (numberOf_strictMono.lt_iff_lt.1 hlt))
    · linarith [numberOf_nonneg (K := K) b, numberOf_nonneg (K := K) mag]
  have hmid := midpointOf_eq (K := K) mag
  have hstop := mt (h.2 mag hmag).2 (lt_irrefl mag)
  push Not at hstop
  obtain ⟨hwle, heven⟩ := hstop
  refine ⟨by linarith, fun htie => ?_⟩
  have := heven (by linarith)
  omega

/-- No number of the format is nearer than the rounded one, and one as near leaves the even one as the result. -/
theorem RoundsTo.nearest (h : RoundsTo mag w) (hw : 0 ≤ w) (hmag : mag < 0x7F800000)
    (hz : z = numberOf b ∨ z = -numberOf b) :
    |numberOf mag - w| ≤ |z - w| ∧ (z ≠ numberOf mag → |z - w| = |numberOf mag - w| → mag % 2 = 0) := by
  rcases lt_trichotomy z (numberOf mag) with hlt | rfl | hlt
  · obtain ⟨hle, heven⟩ := h.midpoint_le hw hz hlt
    rw [abs_of_nonpos (show z - w ≤ 0 by linarith)]
    refine ⟨abs_le.2 ⟨by linarith, by linarith⟩, fun _ htie => heven ?_⟩
    rcases abs_cases (numberOf mag - w) with ⟨habs, -⟩ | ⟨habs, -⟩ <;> linarith
  · exact ⟨le_rfl, fun hne => absurd rfl hne⟩
  · obtain ⟨hle, heven⟩ := h.le_midpoint hmag hz hlt
    rw [abs_of_nonneg (show 0 ≤ z - w by linarith)]
    refine ⟨abs_le.2 ⟨by linarith, by linarith⟩, fun _ htie => heven ?_⟩
    rcases abs_cases (numberOf mag - w) with ⟨habs, -⟩ | ⟨habs, -⟩ <;> linarith

end

/-! ### Correct rounding -/

/-- The last finite magnitude's upper midpoint is where rounding overflows. -/
theorem overflowBound_eq : overflowBound = midpointOf 0x7F7FFFFF := by
  norm_num [overflowBound, midpointOf, halfwayOf, unitsOf, placeOf]

theorem RoundsTo.finite_iff {mag : Nat} {w : ℚ} (h : RoundsTo mag w) : mag < 0x7F800000 ↔ w < overflowBound := by
  have hlast := h.2 0x7F7FFFFF (by decide)
  simp only [show 0x7F7FFFFF % 2 = 1 from rfl, and_true, ← le_iff_lt_or_eq, ← overflowBound_eq] at hlast
  rw [← not_le (b := w), ← hlast]
  omega

/-- A sign and a rounded magnitude are the correctly rounded number of that sign. -/
theorem correctlyRounded_withSign (s : Bool) {mag : Nat} {w : ℚ} (h : RoundsTo mag w) (hw : 0 ≤ w) :
    CorrectlyRounded (withSign s mag) (signFactor s * w) := by
  have hlt : mag < 2 ^ 31 := h.1.trans_lt (by decide)
  have hmag := magnitudeOf_withSign s mag hlt
  have hsign := signOf_withSign s mag hlt
  have hval : valueOf (withSign s mag) = signFactor s * numberOf mag := by rw [valueOf_eq, hmag, hsign]
  have hdist : ∀ z : ℚ, |z - signFactor s * w| = |signFactor s * z - w| := fun z => by
    calc |z - signFactor s * w| = |signFactor s * (z - signFactor s * w)| := by rw [abs_mul, abs_signFactor, one_mul]
      _ = |signFactor s * z - signFactor s * signFactor s * w| := by ring_nf
      _ = |signFactor s * z - w| := by rw [signFactor_mul_self, one_mul]
  have hself : signFactor s * valueOf (withSign s mag) = numberOf mag := by
    rw [hval, ← mul_assoc, signFactor_mul_self, one_mul]
  constructor
  case not_nan => simp [isNan, hmag, h.1]
  case finite_iff => rw [isFinite_iff, hmag, abs_mul, abs_signFactor, one_mul, abs_of_nonneg hw, h.finite_iff]
  case nearest =>
    intro hfin y _
    rw [isFinite_iff, hmag] at hfin
    rw [hdist, hdist, hself]
    exact (h.nearest hw hfin (signFactor_mul_valueOf s y)).1
  case tie_even =>
    intro hfin y _ hne htie
    rw [isFinite_iff, hmag] at hfin
    rw [hdist, hdist, hself] at htie
    have heven := (h.nearest hw hfin (signFactor_mul_valueOf s y)).2
      (fun heq => hne (mul_left_cancel₀ (signFactor_ne_zero s) (heq.trans hself.symm))) htie
    rw [← BitVec.testBit_toNat, withSign_toNat s mag hlt, Nat.testBit_eq_decide_div_mod_eq]
    cases s <;> simp <;> omega
  case inf_sign =>
    intro hinf
    have hbig : ¬ w < overflowBound := by
      rwa [← h.finite_iff, ← hmag, ← isFinite_iff, Bool.not_eq_true]
    have hpos : 0 < w := (by norm_num [overflowBound] : 0 < overflowBound).trans_le (not_lt.1 hbig)
    rw [hsign]
    cases s <;> simp [signFactor, hpos, hw]

theorem roundF32_ieee (s : Bool) (m : Nat) (e : Int) : roundF32 .ieee s m e = withSign s (roundMagnitude m e) := by
  have hflush (mag : Nat) : flushResult .ieee mag = mag := by simp [flushResult, flushesResults]
  rw [roundF32, hflush]

/-- Under IEEE `roundF32` rounds every number that its significand rounds to. -/
theorem correctlyRounded_roundF32 (s : Bool) {m : Nat} {e : Int} {w : ℚ} (h : RoundsTo (roundMagnitude m e) w)
    (hw : 0 ≤ w) : CorrectlyRounded (roundF32 .ieee s m e) (signFactor s * w) := by
  rw [roundF32_ieee]
  exact correctlyRounded_withSign s h hw

/-- Under IEEE `roundF32` rounds the number it is given. -/
theorem correctlyRounded_roundF32_exact (s : Bool) (m : Nat) (e : Int) :
    CorrectlyRounded (roundF32 .ieee s m e) (signFactor s * ((m : ℚ) * 2 ^ e)) :=
  correctlyRounded_roundF32 s (roundsTo_roundMagnitude m e) (by positivity)

end Sys2Proof.Machine
end

section
/-! Sums, products and quotients of finite numbers are correctly rounded under FP_SUBNORMAL = IEEE (00_scope.md R8). -/

namespace Sys2Proof.Machine

open Sys2Proof.Config

/-! ### Sums and differences -/

theorem signedInt_eq (s : Bool) (m : Nat) : (signedInt s m : ℚ) = signFactor s * m := by
  cases s <;> simp [signedInt, signFactor]

theorem natAbs_signed (v : Int) : signFactor (decide (v < 0)) * (v.natAbs : ℚ) = v := by
  rw [Nat.cast_natAbs]
  rcases lt_or_ge v 0 with h | h
  · simp [signFactor, h, abs_of_neg h]
  · simp [signFactor, not_lt.2 h, abs_of_nonneg h]

/-- A significand moved to a smaller exponent stands for the same number. -/
theorem align_significand (m : Nat) {e f : Int} (h : f ≤ e) :
    ((m * 2 ^ (e - f).toNat : Nat) : ℚ) * 2 ^ f = m * 2 ^ e := by
  have hexp : e = ((e - f).toNat : ℤ) + f := by omega
  generalize (e - f).toNat = d at hexp ⊢
  rw [hexp, zpow_add₀ two_ne_zero, zpow_natCast]
  push_cast
  ring

/-- `addFinite` rounds the sum, and answers an exact zero sum with +0.0 unless both operands are negative. -/
theorem addFinite_ieee (s t : Bool) (m n : Nat) (e f : Int) :
    CorrectlyRounded (addFinite .ieee s m e t n f) (signFactor s * (m * 2 ^ e) + signFactor t * (n * 2 ^ f)) ∧
      (signFactor s * ((m : ℚ) * 2 ^ e) + signFactor t * (n * 2 ^ f) = 0 → addFinite .ieee s m e t n f = zeroOf (s && t)) := by
  have hsum : signFactor s * ((m : ℚ) * 2 ^ e) + signFactor t * (n * 2 ^ f) =
      (signedInt s (m * 2 ^ (e - min e f).toNat) + signedInt t (n * 2 ^ (f - min e f).toNat) : Int) * 2 ^ min e f := by
    rw [Int.cast_add, signedInt_eq, signedInt_eq, add_mul, mul_assoc, mul_assoc, align_significand m (min_le_left e f),
      align_significand n (min_le_right e f)]
  rw [hsum, addFinite]
  generalize signedInt s (m * 2 ^ (e - min e f).toNat) + signedInt t (n * 2 ^ (f - min e f).toNat) = v
  have hscale : (2 : ℚ) ^ min e f ≠ 0 := zpow_ne_zero _ two_ne_zero
  by_cases hv : v = 0
  · subst hv
    have hzero := correctlyRounded_withSign (s && t) (roundsTo_zero (K := ℚ)) le_rfl
    simpa [zeroOf] using hzero
  · refine ⟨?_, fun h => absurd h (by simp [hv, hscale])⟩
    rw [if_neg hv, ← natAbs_signed v, mul_assoc]
    exact correctlyRounded_roundF32_exact _ _ _

/-- The sum of two finite numbers, whichever primitive asks for it. -/
theorem addAs_ieee (op : Nat) (a b : F32) (ha : isFinite a = true) (hb : isFinite b = true) :
    CorrectlyRounded (addAs op .ieee a b) (valueOf a + valueOf b) ∧
      (valueOf a + valueOf b = 0 → addAs op .ieee a b = zeroOf (signOf a && signOf b)) := by
  rw [addAs_fin_fin op (unpack_of_isFinite _ a ha) (unpack_of_isFinite _ b hb), valueOf_eq_significandOf a,
    valueOf_eq_significandOf b]
  exact addFinite_ieee _ _ _ _ _ _

theorem zeroOf_eq (s : Bool) : zeroOf s = if s then 0x80000000#32 else 0x00000000#32 := by cases s <;> rfl

theorem infOf_eq (s : Bool) : infOf s = if s then 0xFF800000#32 else 0x7F800000#32 := by cases s <;> rfl

/-- Settles O23: the exact sum in the smaller of the two exponents is rounded once. -/
theorem additionIsCorrectlyRounded : Obligations.AdditionIsCorrectlyRounded := by
  intro a b ha hb
  obtain ⟨hadd, hzero⟩ := addAs_ieee 0 a b ha hb
  have hsub := (addAs_ieee 4 a (fneg b) ha (by rwa [isFinite_fneg])).1
  rw [valueOf_fneg, ← sub_eq_add_neg] at hsub
  exact ⟨hadd, hsub, fun h => (hzero h).trans (zeroOf_eq _)⟩

/-! ### Products -/

/-- Settles O24: the product of the significands is exact and is rounded once. -/
theorem multiplicationIsCorrectlyRounded : Obligations.MultiplicationIsCorrectlyRounded := by
  intro a b ha hb
  have hvalue : valueOf a * valueOf b = signFactor (signOf a ^^ signOf b) *
      ((significandOf .ieee a * significandOf .ieee b : Nat) * 2 ^ (scaleOf a + scaleOf b)) := by
    rw [valueOf_eq_significandOf a, valueOf_eq_significandOf b, signFactor_xor, zpow_add₀ two_ne_zero]
    push_cast
    ring
  rw [fmul_fin_fin (unpack_of_isFinite _ a ha) (unpack_of_isFinite _ b hb), hvalue]
  exact ⟨correctlyRounded_roundF32_exact _ _ _, signOf_roundF32 _ _ _ _⟩

/-! ### Quotients -/

/-- The sticky quotient lies on the quotient's side of every even number. -/
theorem stickyQuotient_compare (m n k : Nat) (hn : 0 < n) :
    (k * n < m * 2 ^ 64 ↔ 2 * k < stickyQuotient m n) ∧ (k * n = m * 2 ^ 64 ↔ 2 * k = stickyQuotient m n) := by
  unfold stickyQuotient
  generalize m * 2 ^ 64 = x
  have hdiv := Nat.div_add_mod' x n
  have hmod := Nat.mod_lt x hn
  generalize x / n = q, x % n = r at hdiv hmod ⊢
  rcases lt_trichotomy k q with h | rfl | h
  · have := Nat.mul_le_mul_right n (Nat.succ_le_of_lt h)
    rw [Nat.succ_mul] at this
    split <;> omega
  · split <;> omega
  · have := Nat.mul_le_mul_right n (Nat.succ_le_of_lt h)
    rw [Nat.succ_mul] at this
    split <;> omega

/-- The sticky quotient stands for the quotient. -/
theorem standsFor_stickyQuotient (m n : Nat) (e f : Int) (hn : 0 < n) :
    StandsFor (stickyQuotient m n) (e - f - 65) (((m : ℚ) * 2 ^ e) / (n * 2 ^ f)) := by
  intro k
  have hpos : (0 : ℚ) < 2 ^ (e - f - 65 + 1) / n := by positivity
  have heven : (k : ℚ) * 2 ^ (e - f - 65 + 1) = (k * n : Nat) * (2 ^ (e - f - 65 + 1) / n) := by
    push_cast
    field_simp
  have hquot : ((m : ℚ) * 2 ^ e) / (n * 2 ^ f) = (m * 2 ^ 64 : Nat) * (2 ^ (e - f - 65 + 1) / n) := by
    rw [show e - f - 65 + 1 = e - f - 64 by omega, zpow_sub₀ two_ne_zero, zpow_sub₀ two_ne_zero]
    push_cast
    field_simp
  rw [heven, hquot, mul_lt_mul_iff_left₀ hpos, mul_left_inj' hpos.ne', Nat.cast_lt, Nat.cast_inj]
  exact stickyQuotient_compare m n k hn

theorem stickyQuotient_large (m n : Nat) (hm : m ≠ 0) (hn : n < 2 ^ 24) (hpos : 0 < n) : 2 ^ 25 < stickyQuotient m n := by
  have hq : 2 ^ 40 ≤ m * 2 ^ 64 / n := by
    rw [Nat.le_div_iff_mul_le hpos]
    omega
  unfold stickyQuotient
  omega

/-- Rounding the sticky quotient rounds the quotient. -/
theorem roundsTo_quotient (m n : Nat) (e f : Int) (hn : n < 2 ^ 24) (hpos : 0 < n) :
    RoundsTo (roundMagnitude (stickyQuotient m n) (e - f - 65)) (((m : ℚ) * 2 ^ e) / (n * 2 ^ f)) := by
  by_cases hm : m = 0
  · subst hm
    simpa [stickyQuotient, roundMagnitude] using roundsTo_zero (K := ℚ)
  · exact roundsTo_of_standsFor (stickyQuotient_large m n hm hn hpos) (standsFor_stickyQuotient m n e f hpos)

/-- Settles O25: the sticky quotient rounds as the quotient does; a zero divisor is a branch of its own. -/
theorem divisionIsCorrectlyRounded : Obligations.DivisionIsCorrectlyRounded := by
  intro a b ha hb
  rw [Ne, Ne, valueOf_eq_zero_iff b, valueOf_eq_zero_iff a,
    fdiv_fin_fin (unpack_of_isFinite _ a ha) (unpack_of_isFinite _ b hb)]
  refine ⟨fun hne => ?_, fun hzero hne => ?_⟩
  · have hvalue : valueOf a / valueOf b = signFactor (signOf a ^^ signOf b) *
        ((significandOf .ieee a * 2 ^ scaleOf a) / (significandOf .ieee b * 2 ^ scaleOf b)) := by
      rw [valueOf_eq_significandOf a, valueOf_eq_significandOf b, mul_div_mul_comm, signFactor_div]
    rw [if_neg hne, hvalue]
    have hround := roundsTo_quotient (significandOf .ieee a) (significandOf .ieee b) (scaleOf a) (scaleOf b)
      (significandOf_lt _ b) (Nat.pos_of_ne_zero hne)
    exact ⟨correctlyRounded_roundF32 _ hround (by positivity), signOf_roundF32 _ _ _ _⟩
  · rw [if_pos hzero, if_neg hne, infOf_eq]

end Sys2Proof.Machine
end

section
/-! Square roots of finite numbers are correctly rounded under FP_SUBNORMAL = IEEE (00_scope.md R8). The root is a real number,
so `RoundsTo` is used on the reals here. -/

namespace Sys2Proof.Machine

open Sys2Proof.Config

/-! ### The integer root and its sticky bit -/

/-- The bits found so far stay a lower bound, and with the open bits filled an upper one. -/
theorem isqrtFrom_spec (bits n root : Nat) (hle : root * root ≤ n)
    (hlt : n < (root + 2 ^ bits) * (root + 2 ^ bits)) :
    isqrtFrom bits n root * isqrtFrom bits n root ≤ n ∧
      n < (isqrtFrom bits n root + 1) * (isqrtFrom bits n root + 1) := by
  induction bits generalizing root with
  | zero => exact ⟨hle, hlt⟩
  | succ bits ih =>
    rw [isqrtFrom]
    split
    next hset =>
      refine ih _ hset ?_
      rwa [Nat.add_assoc, ← Nat.two_mul, ← pow_succ']
    next hclear => exact ih _ hle (Nat.lt_of_not_le hclear)

theorem isqrt_eq_sqrt (n : Nat) (h : n < 2 ^ 86) : isqrt n = Nat.sqrt n :=
  Nat.eq_sqrt.2 (isqrtFrom_spec 43 n 0 (Nat.zero_le n) (by omega))

/-- The sticky root lies on the root's side of every even number. -/
theorem stickyRoot_compare (n k : Nat) (h : n < 2 ^ 86) :
    (k * k < n ↔ 2 * k < stickyRoot n) ∧ (k * k = n ↔ 2 * k = stickyRoot n) := by
  unfold stickyRoot
  rw [isqrt_eq_sqrt n h]
  have hle := Nat.sqrt_le n
  rcases lt_trichotomy k (Nat.sqrt n) with hk | rfl | hk
  · have := Nat.mul_self_lt_mul_self hk
    split <;> omega
  · split <;> omega
  · have := Nat.sqrt_lt.1 hk
    split <;> omega

/-- The sticky root stands for the root, at any scale. -/
theorem standsFor_stickyRoot (n : Nat) (g : Int) (h : n < 2 ^ 86) :
    StandsFor (stickyRoot n) (g - 1) (√(n : ℝ) * 2 ^ g) := by
  intro k
  have hpos : (0 : ℝ) < 2 ^ g := by positivity
  have hk : (0 : ℝ) ≤ k := Nat.cast_nonneg k
  rw [sub_add_cancel, mul_lt_mul_iff_left₀ hpos, mul_left_inj' hpos.ne', Real.lt_sqrt hk, eq_comm,
    Real.sqrt_eq_iff_eq_sq (Nat.cast_nonneg n) hk, eq_comm, sq]
  exact_mod_cast stickyRoot_compare n k h

theorem stickyRoot_large (n : Nat) (h : n < 2 ^ 86) (hn : 2 ^ 60 ≤ n) : 2 ^ 25 < stickyRoot n := by
  have hroot : 2 ^ 30 ≤ Nat.sqrt n := Nat.le_sqrt.2 (by omega)
  unfold stickyRoot
  rw [isqrt_eq_sqrt n h]
  omega

/-- Rounding the sticky root of a significand moved up by `j` bits rounds the root of the number. -/
theorem roundsTo_sqrt (m j : Nat) (g : Int) (hm : m ≠ 0) (hlt : m < 2 ^ 24) (hj : j = 60 ∨ j = 61) :
    RoundsTo (roundMagnitude (stickyRoot (m * 2 ^ j)) (g - 1)) √((m : ℝ) * 2 ^ ((j : ℤ) + 2 * g)) := by
  have hbounds : m * 2 ^ j < 2 ^ 86 ∧ 2 ^ 60 ≤ m * 2 ^ j := by
    rcases hj with rfl | rfl <;> omega
  have hroot : √((m : ℝ) * 2 ^ ((j : ℤ) + 2 * g)) = √((m * 2 ^ j : Nat) : ℝ) * 2 ^ g := by
    have hscale : (0 : ℝ) ≤ 2 ^ g := by positivity
    rw [zpow_add₀ two_ne_zero, zpow_natCast, mul_comm 2 g, zpow_mul, ← mul_assoc, zpow_ofNat,
      Real.sqrt_mul (by positivity), Real.sqrt_sq hscale]
    push_cast
    rfl
  rw [hroot]
  exact roundsTo_of_standsFor (stickyRoot_large _ hbounds.1 hbounds.2) (standsFor_stickyRoot _ g hbounds.1)

/-! ### The root of an operand -/

theorem fsqrt_fin {fp : FpSubnormal} {a : F32} {s : Bool} {m : Nat} {e : Int} (ha : unpack fp a = .fin s m e) :
    fsqrt fp a =
      if m = 0 then zeroOf s
      else if s then producedNan 3 a a
      else if e % 2 = 0 then roundF32 fp false (stickyRoot (m * 2 ^ 60)) ((e - 60) / 2 - 1)
      else roundF32 fp false (stickyRoot (m * 2 ^ 61)) ((e - 61) / 2 - 1) := by
  unfold fsqrt
  rw [ha]

/-- The significand of a positive number is moved up by 60 or 61 bits, so that the exponent left over is even. -/
theorem fsqrt_fin_pos {fp : FpSubnormal} {a : F32} {m : Nat} {e : Int} (ha : unpack fp a = .fin false m e)
    (hm : m ≠ 0) :
    ∃ (j : Nat) (g : Int), (j = 60 ∨ j = 61) ∧ e = j + 2 * g ∧
      fsqrt fp a = roundF32 fp false (stickyRoot (m * 2 ^ j)) (g - 1) := by
  rw [fsqrt_fin ha, if_neg hm, if_neg Bool.false_ne_true]
  split
  · exact ⟨60, (e - 60) / 2, .inl rfl, by omega, rfl⟩
  · exact ⟨61, (e - 61) / 2, .inr rfl, by omega, rfl⟩

/-- The root of a number that is not negative has the magnitude that rounds the real root, and is not negative. -/
theorem fsqrt_ieee (a : F32) (ha : isFinite a = true) (hpos : 0 ≤ valueOf a) :
    RoundsTo (magnitudeOf (fsqrt .ieee a)) √(valueOf a : ℝ) ∧
      valueOf (fsqrt .ieee a) = numberOf (magnitudeOf (fsqrt .ieee a)) := by
  have hunpack := unpack_of_isFinite .ieee a ha
  have hlt := significandOf_lt .ieee a
  have hscale : (0 : ℚ) < 2 ^ scaleOf a := by positivity
  rw [valueOf_eq (fsqrt .ieee a)]
  rw [valueOf_eq_significandOf] at hpos ⊢
  generalize significandOf .ieee a = m, scaleOf a = e, signOf a = s at *
  by_cases hm : m = 0
  · subst hm
    have hmag : magnitudeOf (zeroOf s) = 0 := magnitudeOf_withSign s 0 (by decide)
    rw [fsqrt_fin hunpack, if_pos rfl, hmag]
    simpa using roundsTo_zero (K := ℝ)
  · have hfactor : (0 : ℚ) < m * 2 ^ e := mul_pos (Nat.cast_pos.2 (Nat.pos_of_ne_zero hm)) hscale
    have hs : s = false := by
      by_contra hs
      simp only [Bool.not_eq_false] at hs
      simp only [signFactor, hs, if_true] at hpos
      linarith
    subst hs
    obtain ⟨j, g, hj, rfl, hroot⟩ := fsqrt_fin_pos hunpack hm
    have hround := roundsTo_sqrt m j g hm hlt hj
    have hmag := hround.1
    rw [hroot, roundF32_ieee, magnitudeOf_withSign _ _ (by omega), signOf_withSign _ _ (by omega)]
    simpa [signFactor] using hround

/-! ### The statement -/

theorem numberOf_cast (a : Nat) : ((numberOf a : ℚ) : ℝ) = numberOf a := by
  rw [numberOf, numberOf]
  push_cast
  rfl

theorem valueOf_cast (x : F32) :
    (valueOf x : ℝ) = numberOf (magnitudeOf x) ∨ (valueOf x : ℝ) = -numberOf (magnitudeOf x) := by
  rw [valueOf_eq, ← numberOf_cast]
  cases signOf x <;> simp [signFactor]

/-- The root of a finite number does not round beyond the largest finite number. -/
theorem finite_of_roundsTo_sqrt {mag : Nat} {a : F32} (h : RoundsTo mag √(valueOf a : ℝ)) (ha : isFinite a = true) :
    mag < 0x7F800000 := by
  have hone : (1 : ℝ) ≤ numberOf 0x7F7FFFFF := by norm_num [numberOf, unitsOf, placeOf]
  have hle : (valueOf a : ℝ) ≤ numberOf 0x7F7FFFFF := by
    have hmono : (numberOf (magnitudeOf a) : ℝ) ≤ numberOf 0x7F7FFFFF :=
      numberOf_strictMono.monotone (Nat.le_of_lt_succ ((isFinite_iff a).1 ha))
    rcases valueOf_cast a with hval | hval <;> linarith [numberOf_nonneg (K := ℝ) (magnitudeOf a)]
  have hroot : √(valueOf a : ℝ) ≤ numberOf 0x7F7FFFFF := (Real.sqrt_le_left (by linarith)).2 (by nlinarith)
  have hmid : (numberOf 0x7F7FFFFF : ℝ) < midpointOf 0x7F7FFFFF := by
    have := numberOf_strictMono (K := ℝ) (Nat.lt_succ_self 0x7F7FFFFF)
    rw [midpointOf_eq]
    linarith
  by_contra! hbig
  rcases (h.2 0x7F7FFFFF (by decide)).1 (by omega) with hlt | ⟨heq, -⟩ <;> linarith

/-- Settles O26: the sticky root rounds as the real root does, and a midpoint's side of the root is its square's side of the
operand. -/
theorem squareRootIsCorrectlyRounded : Obligations.SquareRootIsCorrectlyRounded := by
  intro a ha hpos
  obtain ⟨hround, hval⟩ := fsqrt_ieee a ha hpos
  rw [isFinite_iff, hval]
  generalize magnitudeOf (fsqrt .ieee a) = mag at hround ⊢
  have hroot : (0 : ℝ) ≤ valueOf a := by exact_mod_cast hpos
  have hfin : mag < 0x7F800000 := finite_of_roundsTo_sqrt hround ha
  refine ⟨hfin, numberOf_nonneg mag, fun y _ hy => ?_⟩
  have hz := valueOf_cast y
  have hsum : (0 : ℝ) ≤ (valueOf y + numberOf mag) / 2 := by
    have := numberOf_nonneg (K := ℝ) mag
    have : (0 : ℝ) ≤ valueOf y := by exact_mod_cast hy
    positivity
  rw [add_comm]
  constructor
  · intro hlt
    have hle := (hround.le_midpoint hfin hz (by rw [← numberOf_cast]; exact_mod_cast hlt)).1
    rw [Real.sqrt_le_left hsum, ← numberOf_cast] at hle
    exact_mod_cast hle
  · intro hlt
    have hle := (hround.midpoint_le (Real.sqrt_nonneg _) hz (by rw [← numberOf_cast]; exact_mod_cast hlt)).1
    rw [Real.le_sqrt hsum hroot, ← numberOf_cast] at hle
    exact_mod_cast hle

end Sys2Proof.Machine
end

section
/-! Everything a step can do, as one inductive predicate: which operation it runs, on what state, and when. The statements
about a whole step are read off its constructors. -/

namespace Sys2Proof.Machine

open Sys2Proof.Config

/-! ### What the operations of a step leave unchanged -/

@[simp] theorem sampleStep_slots (k : Fin 26) (s : State) : (sampleStep k s).slots = s.slots := by rw [sampleStep_frame]
@[simp] theorem sampleStep_cursor (k : Fin 26) (s : State) : (sampleStep k s).cursor = s.cursor := by rw [sampleStep_frame]
@[simp] theorem sampleStep_cmp (k : Fin 26) (s : State) (c : Channel) : (sampleStep k s).cmp c = s.cmp c := by
  rw [sampleStep_frame]
  rfl
@[simp] theorem sampleStep_tickPhase (k : Fin 26) (s : State) : (sampleStep k s).tickPhase = s.tickPhase := by
  rw [sampleStep_frame]
@[simp] theorem sampleStep_tickPending (k : Fin 26) (s : State) : (sampleStep k s).tickPending = s.tickPending := by
  rw [sampleStep_frame]
@[simp] theorem sampleStep_diagTicksSinceWrite (k : Fin 26) (s : State) :
    (sampleStep k s).diagTicksSinceWrite = s.diagTicksSinceWrite := by rw [sampleStep_frame]
@[simp] theorem sampleStep_hostWrite (k : Fin 26) (s : State) : (sampleStep k s).hostWrite = s.hostWrite := by
  rw [sampleStep_frame]

@[simp] theorem compute_slots (s : State) : (compute s).slots = s.slots := by simp [compute, computeWith, driveAll]
@[simp] theorem compute_cursor (s : State) : (compute s).cursor = s.cursor := by simp [compute, computeWith, driveAll]
@[simp] theorem compute_hostWrite (s : State) : (compute s).hostWrite = s.hostWrite := by
  simp [compute, computeWith, driveAll]
@[simp] theorem compute_idle_iff (s : State) : (compute s).tickPhase = .idle ↔ s.tickPending = false := by
  cases h : s.tickPending <;> simp [compute, computeWith, driveAll, h]
@[simp] theorem compute_tickPending (s : State) : (compute s).tickPending = false := by simp [compute, computeWith]
@[simp] theorem compute_diagTicksSinceWrite (s : State) :
    (compute s).diagTicksSinceWrite = (countTick s).diagTicksSinceWrite := by
  simp [compute, computeWith, driveAll]

@[simp] theorem emit_cmp (r : ObsRecord) (s : State) (c : Channel) : (emit r s).cmp c = s.cmp c := rfl

@[simp] theorem finishHostWrite_cmp (s : State) (c : Channel) : (finishHostWrite s).cmp c = s.cmp c := by
  cases c <;> simp [State.cmp]

section
variable (c : Channel) (p : F32) (g : GoalSeekFunctions) (start goal : Pose) (s : State)

@[simp] theorem setDuty_slots : (setDuty c p s).slots = s.slots := by simp [setDuty]
@[simp] theorem setDuty_cursor : (setDuty c p s).cursor = s.cursor := by simp [setDuty]
@[simp] theorem setDuty_tickPhase : (setDuty c p s).tickPhase = s.tickPhase := by simp [setDuty]
@[simp] theorem setDuty_tickPending : (setDuty c p s).tickPending = s.tickPending := by simp [setDuty]
@[simp] theorem setDuty_diagTicksSinceWrite : (setDuty c p s).diagTicksSinceWrite = s.diagTicksSinceWrite := by simp [setDuty]
@[simp] theorem setDuty_hostWrite : (setDuty c p s).hostWrite = s.hostWrite := by simp [setDuty]

@[simp] theorem ikGoalWith_slots : (ikGoalWith g start goal s).slots = s.slots := by simp [ikGoalWith, goalOut]
@[simp] theorem ikGoalWith_cursor : (ikGoalWith g start goal s).cursor = s.cursor := by simp [ikGoalWith, goalOut]
@[simp] theorem ikGoalWith_tickPhase : (ikGoalWith g start goal s).tickPhase = s.tickPhase := by simp [ikGoalWith, goalOut]
@[simp] theorem ikGoalWith_tickPending : (ikGoalWith g start goal s).tickPending = s.tickPending := by
  simp [ikGoalWith, goalOut]
@[simp] theorem ikGoalWith_diagTicksSinceWrite : (ikGoalWith g start goal s).diagTicksSinceWrite = s.diagTicksSinceWrite := by
  simp [ikGoalWith, goalOut]
@[simp] theorem ikGoalWith_hostWrite : (ikGoalWith g start goal s).hostWrite = s.hostWrite := by simp [ikGoalWith, goalOut]

end

theorem setDuty_cmp_other (c d : Channel) (p : F32) (s : State) (h : d ≠ c) : (setDuty c p s).cmp d = s.cmp d := by
  simp [setDuty, cmp_driveChannel_other c d p s h]

theorem ikGoalWith_cmp_grip (g : GoalSeekFunctions) (start goal : Pose) (s : State) (c : Channel)
    (hr : c ≠ .rightWheel) (hl : c ≠ .leftWheel) : (ikGoalWith g start goal s).cmp c = s.cmp c := by
  simp [ikGoalWith, goalOut, cmp_driveChannel_other _ c _ _ hr, cmp_driveChannel_other _ c _ _ hl]

/-! ### What the agents do with a move -/

theorem idle_of_ne_sampling {p : TickPhase} (h : p ≠ .sampling) : p = .idle := by
  cases p with
  | idle => rfl
  | sampling => exact absurd rfl h

/-- A sampling step that is not enabled changes nothing (log entry 3). -/
theorem trySample_disabled (k : Fin 26) (s : State)
    (h : ¬ (s.tickPhase = .sampling ∧ s.snapDone.getLsbD k.val = false)) : trySample k s = s :=
  if_neg (by simpa using h)

/-- A compute step that is not enabled changes nothing (log entry 3). -/
theorem tryCompute_disabled (s : State) (h : ¬ (s.tickPhase = .sampling ∧ s.snapDone = BitVec.allOnes 26)) :
    tryCompute s = s :=
  if_neg (by simpa [State.allSampled] using h)

/-- The tick agent samples while a half is missing. -/
theorem tickAgent_samples (s : State) (hp : s.tickPhase = .sampling) (hd : s.snapDone ≠ BitVec.allOnes 26) :
    tickAgent s = sampleStep (freePick s) { s with draws := s.draws + 1 } := by
  unfold tickAgent
  rw [hp]
  exact if_neg fun h => hd (of_decide_eq_true h)

/-- The tick agent computes once nothing is missing. -/
theorem tickAgent_computes (s : State) (hp : s.tickPhase = .sampling) (hd : s.snapDone = BitVec.allOnes 26) :
    tickAgent s = compute s := by
  unfold tickAgent
  rw [hp]
  exact if_pos (decide_eq_true hd)

theorem tickAgent_idle (s : State) (hp : s.tickPhase = .idle) : tickAgent s = s := by
  unfold tickAgent
  rw [hp]

/-- What the tick agent does on its own. -/
theorem tickAgent_cases (s : State) :
    (s.tickPhase = .sampling ∧ s.snapDone = BitVec.allOnes 26 ∧ tickAgent s = compute s) ∨
    (s.tickPhase = .sampling ∧ ∃ k, tickAgent s = sampleStep k { s with draws := s.draws + 1 }) ∨ tickAgent s = s := by
  by_cases hp : s.tickPhase = .sampling
  · by_cases hd : s.snapDone = BitVec.allOnes 26
    · exact .inl ⟨hp, hd, tickAgent_computes s hp hd⟩
    · exact .inr (.inl ⟨hp, _, tickAgent_samples s hp hd⟩)
  · exact .inr (.inr (tickAgent_idle s (idle_of_ne_sampling hp)))

/-- What a move that is no event does. -/
theorem agentMove_cases (m : Move) (s : State) :
    (m = .compute ∧ s.tickPhase = .sampling ∧ s.snapDone = BitVec.allOnes 26 ∧ agentMove m s = compute s) ∨
    (m = .hostHalf ∧ agentMove m s = finishHostWrite s) ∨
    (s.tickPhase = .sampling ∧ ∃ k, agentMove m s = sampleStep k s) ∨ ∃ p, agentMove m s = { s with posePort := p } := by
  cases m with
  | event split word => exact .inr (.inr (.inr ⟨s.posePort, rfl⟩))
  | hostHalf => exact .inr (.inl ⟨rfl, rfl⟩)
  | sample k =>
    by_cases h : s.tickPhase = .sampling ∧ s.snapDone.getLsbD k.val = false
    · exact .inr (.inr (.inl ⟨h.1, k, trySample_enabled k s h.1 h.2⟩))
    · exact .inr (.inr (.inr ⟨s.posePort, trySample_disabled k s h⟩))
  | compute =>
    by_cases h : s.tickPhase = .sampling ∧ s.snapDone = BitVec.allOnes 26
    · exact .inl ⟨rfl, h.1, h.2, tryCompute_enabled s h.1 h.2⟩
    · exact .inr (.inr (.inr ⟨s.posePort, tryCompute_disabled s h⟩))
  | pose p => exact .inr (.inr (.inr ⟨p, rfl⟩))

/-! ### An event, and a step that an event word begins -/

theorem exec_tick1ms_idle (s : State) (hp : s.tickPhase = .idle) : exec .tick1ms s = .next (enterTick s) := by
  simp [exec, execTick1ms, hp]

theorem exec_tick1ms_sampling (s : State) (hp : s.tickPhase = .sampling) :
    exec .tick1ms s = .next { s with tickPending := true } := by
  simp [exec, execTick1ms, hp]

theorem getStatus_of_not_lt (s : State) (h : ¬ s.cursor.toNat < 10) :
    getStatus s = .refused (.outsideSlotRegion s.cursor.toNat) := by
  simp [getStatus, h]

theorem hostMustFinish_eq_false (i : Instr) (s : State) :
    hostMustFinish i s = false ↔ (i.port = .host → s.hostWrite = none) := by
  simp [hostMustFinish]

theorem hostMustFinish_eq_true (i : Instr) (s : State) :
    hostMustFinish i s = true ↔ i.port = .host ∧ s.hostWrite.isSome = true := by
  simp [hostMustFinish]

/-- The next move of the schedule is the event word of `i`, with the schedule's word on splitting it. -/
def State.eventNext (s : State) (split : Option Half) (i : Instr) : Prop :=
  ∃ word rest, s.input = .event split word :: rest ∧ decode word = .ok i

/-- The step of an event that need not wait is the event's own. -/
theorem step_event (s : State) (split : Option Half) (word : List Byte) (rest : List Move) (i : Instr)
    (hin : s.input = .event split word :: rest) (hd : decode word = .ok i) (hw : i.port = .host → s.hostWrite = none) :
    step s = exec i (arrive split rest s) := by
  simp [step, hin, hd, (hostMustFinish_eq_false i s).2 hw]

/-- The step of a host command that must wait is the half-write the host owes (40_host_commands.md R90). -/
theorem step_event_waits (s : State) (split : Option Half) (word : List Byte) (rest : List Move) (i : Instr)
    (hin : s.input = .event split word :: rest) (hd : decode word = .ok i) (hp : i.port = .host)
    (hw : s.hostWrite.isSome = true) : step s = .next (finishHostWrite (clearPort s)) := by
  simp [step, hin, hd, (hostMustFinish_eq_true i s).2 ⟨hp, hw⟩]

/-- The step of a word that spells no event is refused (30_encoding.md R76). -/
theorem step_event_refused (s : State) (split : Option Half) (word : List Byte) (rest : List Move) (e : DecodeError)
    (hin : s.input = .event split word :: rest) (hd : decode word = .error e) : step s = .refused (refusalOf word e) := by
  simp [step, hin, hd]

/-- A SET_SLOT is written whole, or the schedule splits it. -/
theorem writesWhole_or_split (s : State) :
    s.writesWhole ∨ ∃ half, s.params.tearBits = .b16 ∧ s.hostSplit = some half := by
  cases hs : s.hostSplit with
  | none => exact .inl (.inl hs)
  | some half =>
    cases ht : s.params.tearBits with
    | b16 => exact .inr ⟨half, rfl, rfl⟩
    | b32 => exact .inl (.inr ht)

theorem slotEvent_port (j : Fin 10) (v : F32) : (slotEvent j v).port = .host := by
  fin_cases j <;> rfl

/-! ### The kinds of step -/

/-- The state that a step's operation acts on: only the port, the schedule's fields and the count of draws may differ from
the state before the step. -/
def beginStep (moves : List Move) (split : Option Half) (draws : Nat) (s : State) : State :=
  { s with statusPort := none, input := moves, hostSplit := split, draws := draws }

section
variable (moves : List Move) (split : Option Half) (draws : Nat) (s : State)

@[simp] theorem beginStep_slots : (beginStep moves split draws s).slots = s.slots := rfl
@[simp] theorem beginStep_cursor : (beginStep moves split draws s).cursor = s.cursor := rfl
@[simp] theorem beginStep_cmp (c : Channel) : (beginStep moves split draws s).cmp c = s.cmp c := rfl
@[simp] theorem beginStep_params : (beginStep moves split draws s).params = s.params := rfl
@[simp] theorem beginStep_tickPhase : (beginStep moves split draws s).tickPhase = s.tickPhase := rfl
@[simp] theorem beginStep_tickPending : (beginStep moves split draws s).tickPending = s.tickPending := rfl
@[simp] theorem beginStep_diagTicksSinceWrite :
    (beginStep moves split draws s).diagTicksSinceWrite = s.diagTicksSinceWrite := rfl
@[simp] theorem beginStep_hostWrite : (beginStep moves split draws s).hostWrite = s.hostWrite := rfl

end

/-- What a step of `s` can do, and when. -/
inductive StepKind (s : State) : State → Prop
  /-- The compute step of a tick. -/
  | compute {moves split draws} (h : s.computesNext) : StepKind s (compute (beginStep moves split draws s))
  /-- The half-write the host owes, scheduled or because a host command waits for it. -/
  | halfWrite {moves split draws} (w : HostWrite) (hw : s.hostWrite = some w)
      (h : (∃ rest, s.input = .hostHalf :: rest) ∨ ∃ sp i, s.eventNext sp i ∧ i.port = .host) :
      StepKind s (finishHostWrite (beginStep moves split draws s))
  /-- A sampling step. -/
  | sample {moves split draws} (k : Fin 26) (h : s.tickPhase = .sampling) :
      StepKind s (sampleStep k (beginStep moves split draws s))
  /-- SET_SLOT in one piece. -/
  | wholeSlot {moves split draws} (j : Fin 10) (v : F32) (h : s.eventNext split (slotEvent j v))
      (hwhole : split = none ∨ s.params.tearBits = .b32) :
      StepKind s (writeWholeSlot j v (beginStep moves split draws s))
  /-- The first half-write of a SET_SLOT that the schedule splits. -/
  | firstHalf {moves draws} (j : Fin 10) (v : F32) (half : Half) (h : s.eventNext (some half) (slotEvent j v))
      (htorn : s.params.tearBits = .b16) : StepKind s (writeFirstHalf j v half (beginStep moves (some half) draws s))
  /-- SET_DUTY. -/
  | setDuty {moves split draws} (c : Channel) (p : F32) (h : s.eventNext split (dutyEvent c p)) :
      StepKind s (setDuty c p (beginStep moves split draws s))
  /-- IK_GOAL. -/
  | ikGoal {moves split draws} (start goal : Pose)
      (h : s.eventNext split (.ikGoal start.x start.y start.th goal.x goal.y goal.th)) :
      StepKind s (ikGoalWith goalSeekFunctions start goal (beginStep moves split draws s))
  /-- TICK_1MS in the idle block. -/
  | enterTick {moves split draws} (h : s.eventNext split .tick1ms) (hp : s.tickPhase = .idle) :
      StepKind s (enterTick (beginStep moves split draws s))
  /-- TICK_1MS while a tick is in progress. -/
  | pendTick {moves split draws} (h : s.eventNext split .tick1ms) (hp : s.tickPhase = .sampling) :
      StepKind s { beginStep moves split draws s with tickPending := true }
  /-- RESET. -/
  | reset {moves split draws} (h : s.eventNext split .reset) : StepKind s (resetBlock (beginStep moves split draws s))
  /-- Every other step: of the block's own state nothing changes. -/
  | quiet {moves split draws} (pose : Option Pose) (port : Option F32) (trace : List ObsRecord) :
      StepKind s { beginStep moves split draws s with posePort := pose, statusPort := port, trace := trace }

theorem stepKind_tickAgent (s : State) (hin : s.input = []) : StepKind s (tickAgent (clearPort s)) := by
  rcases tickAgent_cases (clearPort s) with ⟨hp, hd, h⟩ | ⟨hp, k, h⟩ | h <;> rw [h]
  · exact .compute ⟨hp, hd, .inl hin⟩
  · exact .sample k hp
  · exact .quiet s.posePort none s.trace

theorem stepKind_agentMove (s : State) (m : Move) (rest : List Move) (hin : s.input = m :: rest) :
    StepKind s (agentMove m (takeMove rest s)) := by
  rcases agentMove_cases m (takeMove rest s) with ⟨rfl, hp, hd, h⟩ | ⟨rfl, h⟩ | ⟨hp, k, h⟩ | ⟨p, h⟩ <;> rw [h]
  · exact .compute ⟨hp, hd, .inr ⟨rest, hin⟩⟩
  · cases hw : s.hostWrite with
    | none =>
      rw [finishHostWrite_none (takeMove rest s) hw]
      exact .quiet s.posePort none s.trace
    | some w => exact .halfWrite w hw (.inl ⟨rest, hin⟩)
  · exact .sample k hp
  · exact .quiet p none s.trace

theorem stepKind_exec (s t : State) (split : Option Half) (word : List Byte) (rest : List Move) (i : Instr)
    (hin : s.input = .event split word :: rest) (hd : decode word = .ok i) (h : exec i (arrive split rest s) = .next t) :
    StepKind s t := by
  have hnext : s.eventNext split i := ⟨word, rest, hin, hd⟩
  rcases exec_cases i _ t h with ⟨j, v, rfl, rfl⟩ | ⟨k, hc, -, rfl⟩ | ⟨c, p, rfl, rfl⟩ | ⟨start, goal, rfl, rfl⟩ |
    ⟨rfl, ⟨hp, rfl⟩ | ⟨hp, rfl⟩⟩ | ⟨rfl, rfl⟩ | rfl
  · rcases writesWhole_or_split (arrive split rest s) with hwhole | ⟨half, htorn, rfl⟩
    · rw [setSlot_whole j v _ hwhole]
      exact .wholeSlot j v hnext hwhole
    · rw [setSlot_split j v half _ htorn rfl]
      exact .firstHalf j v half hnext htorn
  · exact .quiet s.posePort _ _
  · exact .setDuty c p hnext
  · exact .ikGoal start goal hnext
  · exact .enterTick hnext hp
  · exact .pendTick hnext hp
  · exact .reset hnext
  · exact .quiet s.posePort none s.trace

/-- Every step that goes on is of one of the kinds. -/
theorem stepKind_of_step {s t : State} (h : step s = .next t) : StepKind s t := by
  rcases step_cases s t h with ⟨hin, rfl⟩ | ⟨split, word, rest, i, hin, hd, ⟨hm, rfl⟩ | ⟨-, hexec⟩⟩ | ⟨m, rest, hin, -, rfl⟩
  · exact stepKind_tickAgent s hin
  · obtain ⟨hp, hw⟩ := (hostMustFinish_eq_true i s).1 hm
    obtain ⟨w, hw⟩ := Option.isSome_iff_exists.1 hw
    exact .halfWrite w hw (.inr ⟨split, i, ⟨word, rest, hin, hd⟩, hp⟩)
  · exact stepKind_exec s t split word rest i hin hd hexec
  · exact stepKind_agentMove s m rest hin

end Sys2Proof.Machine
end

section
/-! What a whole step may change, kind by kind: the slots, the compare registers, the phase of the tick, the counter of ticks
since the last write, and the invariant (10_state.md R25 to R37). -/

namespace Sys2Proof.Machine

open Sys2Proof.Config

/-! ### No event stops the block -/

/-- Settles O8: an event ends in a next state kind by kind, GET_STATUS because CURSOR names a slot; there is no fault to end
in. -/
theorem noEventStopsTheBlock : Obligations.NoEventStopsTheBlock := by
  refine ⟨fun i s hc => ?_, fun _ _ r => r.casesOn, fun _ r => r.casesOn⟩
  rcases instr_kinds i with ⟨j, v, rfl⟩ | ⟨k, rfl⟩ | ⟨c, p, rfl⟩ | ⟨xs, ys, ths, xg, yg, thg, rfl⟩ | rfl | rfl | hi
  · exact ⟨_, exec_slotEvent j v s⟩
  · exact ⟨_, (exec_statusEvent k s).trans (getStatus_of_lt s hc)⟩
  · exact ⟨_, exec_dutyEvent c p s⟩
  · exact ⟨_, rfl⟩
  · exact ⟨_, rfl⟩
  · exact ⟨_, rfl⟩
  · exact ⟨s, hi s⟩

/-! ### The slots and the compare registers -/

/-- Settles O57: of the kinds of step only the two half-writes, the whole write and RESET touch the slot memory. -/
theorem onlyTheHostAndResetWriteSlots : Obligations.OnlyTheHostAndResetWriteSlots := by
  intro s t hstep hne
  cases stepKind_of_step hstep with
  | halfWrite w hw h =>
    have hsome : s.hostWrite.isSome = true := by simp [hw]
    rcases h with ⟨rest, hin⟩ | ⟨split, i, ⟨word, rest, hin, hd⟩, hp⟩
    · exact ⟨_, rest, hin, .inl ⟨rfl, hsome⟩⟩
    · exact ⟨_, rest, hin, .inr ⟨split, word, i, rfl, hd, .inr (.inl ⟨hp, hsome⟩)⟩⟩
  | wholeSlot j v h | firstHalf j v _ h =>
    obtain ⟨word, rest, hin, hd⟩ := h
    exact ⟨_, rest, hin, .inr ⟨_, word, _, rfl, hd, .inl ⟨j, v, rfl⟩⟩⟩
  | reset h =>
    obtain ⟨word, rest, hin, hd⟩ := h
    exact ⟨_, rest, hin, .inr ⟨_, word, _, rfl, hd, .inr (.inr rfl)⟩⟩
  | compute | sample | setDuty | ikGoal | enterTick | pendTick | quiet => exact absurd (by simp) hne

/-- Settles O58: of the kinds of step only the compute step, the two calls of the duty mapper and RESET touch the compare
registers, and each call only its own channels. -/
theorem compareRegistersKeepTheirValue : Obligations.CompareRegistersKeepTheirValue := by
  intro s t c hstep hne
  cases stepKind_of_step hstep with
  | compute h => exact .inl h
  | setDuty d p h =>
    obtain ⟨word, rest, hin, hd⟩ := h
    obtain rfl : c = d := by
      by_contra hcd
      exact hne (setDuty_cmp_other d c p _ hcd)
    exact .inr ⟨_, word, _, rest, hin, hd, .inl ⟨p, rfl⟩⟩
  | ikGoal start goal h =>
    obtain ⟨word, rest, hin, hd⟩ := h
    have hwheel : c = .rightWheel ∨ c = .leftWheel := by
      by_contra hc
      obtain ⟨hr, hl⟩ := not_or.1 hc
      exact hne (ikGoalWith_cmp_grip _ start goal _ c hr hl)
    exact .inr ⟨_, word, _, rest, hin, hd, .inr (.inl ⟨hwheel, _, _, _, _, _, _, rfl⟩)⟩
  | reset h =>
    obtain ⟨word, rest, hin, hd⟩ := h
    exact .inr ⟨_, word, _, rest, hin, hd, .inr (.inr rfl)⟩
  | halfWrite | sample => exact absurd (by simp) hne
  | wholeSlot | firstHalf | enterTick | pendTick | quiet => exact absurd rfl hne

/-! ### The phase of the tick -/

/-- Settles O59: the phase leaves IDLE in the kind `enterTick` alone, and SAMPLING in the kinds `compute` and `reset`. -/
theorem tickPhaseMovesOnlyByTickComputeAndReset : Obligations.TickPhaseMovesOnlyByTickComputeAndReset := by
  intro s t hstep
  cases stepKind_of_step hstep with
  | compute h =>
    obtain ⟨hp, hdone, hin⟩ := h
    exact ⟨fun hidle => by simp [hp] at hidle, fun _ hback => .inl ⟨hdone, by simpa using hback, hin⟩⟩
  | enterTick h =>
    obtain ⟨word, rest, hin, hd⟩ := h
    exact ⟨fun _ _ => ⟨_, word, rest, hin, hd⟩, fun _ hback => nomatch hback⟩
  | reset h =>
    obtain ⟨word, rest, hin, hd⟩ := h
    exact ⟨fun _ henter => (nomatch henter), fun _ _ => .inr ⟨_, word, rest, hin, hd⟩⟩
  | halfWrite | sample | wholeSlot | firstHalf | setDuty | ikGoal | pendTick | quiet =>
    exact ⟨fun hidle henter => by simp [hidle] at henter, fun hp hback => by simp [hp] at hback⟩

/-! ### The counter of ticks since the last write -/

theorem countTick_saturates (s : State) :
    (countTick s).diagTicksSinceWrite.toNat = min (s.diagTicksSinceWrite.toNat + 1) (2 ^ 32 - 1) := by
  rw [countTick_diagTicksSinceWrite]
  split
  next h => simp [h]
  next h =>
    have : s.diagTicksSinceWrite.toNat ≠ 0xFFFFFFFF := fun hc => h (BitVec.eq_of_toNat_eq hc)
    bv_omega

theorem finishHostWrite_diagTicksSinceWrite (s : State) (h : s.hostWrite.isSome = true) :
    (finishHostWrite s).diagTicksSinceWrite = 0#32 := by
  obtain ⟨w, hw⟩ := Option.isSome_iff_exists.1 h
  rw [finishHostWrite_some s w hw, noteSlotWritten_diagTicksSinceWrite]

/-- The step that `State.computesNext` announces. -/
theorem step_of_computesNext (s t : State) (hstep : step s = .next t) (h : s.computesNext) :
    ∃ moves, t = compute (beginStep moves s.hostSplit s.draws s) := by
  obtain ⟨hp, hd, hin | ⟨rest, hin⟩⟩ := h
  · refine ⟨s.input, ?_⟩
    rw [step_nil s hin] at hstep
    exact (Host.Outcome.next.inj hstep).symm.trans (tickAgent_computes (clearPort s) hp hd)
  · refine ⟨rest, ?_⟩
    rw [step_agentMove s .compute rest hin nofun] at hstep
    exact (Host.Outcome.next.inj hstep).symm.trans (tryCompute_enabled (takeMove rest s) hp hd)

theorem step_diagTicks_of_completesWriteNext (s t : State) (hstep : step s = .next t) (h : s.completesWriteNext) :
    t.diagTicksSinceWrite = 0#32 := by
  rcases h with ⟨hw, rest, hin⟩ | ⟨split, word, rest, i, hin, hd, hp, h⟩
  · rw [step_agentMove s .hostHalf rest hin nofun] at hstep
    cases hstep
    exact finishHostWrite_diagTicksSinceWrite (takeMove rest s) hw
  · by_cases hw : s.hostWrite.isSome = true
    · rw [step_event_waits s split word rest i hin hd hp hw] at hstep
      cases hstep
      exact finishHostWrite_diagTicksSinceWrite (clearPort s) hw
    · obtain ⟨⟨j, v, rfl⟩, hwhole⟩ := h.resolve_left hw
      rw [step_event s split word rest _ hin hd fun _ => by simpa using hw, exec_slotEvent,
        setSlot_whole j v (arrive split rest s) hwhole] at hstep
      cases hstep
      rfl

theorem step_diagTicks_of_resetsNext (s t : State) (hstep : step s = .next t) (h : s.resetsNext) :
    t.diagTicksSinceWrite = 0#32 := by
  obtain ⟨split, word, rest, hin, hd⟩ := h
  rw [step_event s split word rest .reset hin hd nofun] at hstep
  cases hstep
  rfl

/-- Settles O60: the three kinds the statement names by the step they announce; of the other kinds of step none touches the
counter. -/
theorem ticksSinceWriteCountsAndSaturates : Obligations.TicksSinceWriteCountsAndSaturates := by
  intro s t hstep
  refine ⟨fun h => ?_,
    fun h => h.elim (step_diagTicks_of_completesWriteNext s t hstep) (step_diagTicks_of_resetsNext s t hstep),
    fun hc hw hr => ?_⟩
  · obtain ⟨moves, rfl⟩ := step_of_computesNext s t hstep h
    rw [compute_diagTicksSinceWrite, countTick_saturates, beginStep_diagTicksSinceWrite]
  · cases stepKind_of_step hstep with
    | compute h => exact absurd h hc
    | reset h =>
      obtain ⟨word, rest, hin, hd⟩ := h
      exact absurd ⟨_, word, rest, hin, hd⟩ hr
    | halfWrite w howed h =>
      have hsome : s.hostWrite.isSome = true := by simp [howed]
      rcases h with ⟨rest, hin⟩ | ⟨split, i, ⟨word, rest, hin, hd⟩, hp⟩
      · exact absurd (.inl ⟨hsome, rest, hin⟩) hw
      · exact absurd (.inr ⟨split, word, rest, i, hin, hd, hp, .inl hsome⟩) hw
    | wholeSlot j v h hwhole =>
      obtain ⟨word, rest, hin, hd⟩ := h
      exact absurd (.inr ⟨_, word, rest, _, hin, hd, slotEvent_port j v, .inr ⟨⟨j, v, rfl⟩, hwhole⟩⟩) hw
    | sample | firstHalf | setDuty | ikGoal | enterTick | pendTick | quiet => simp

/-! ### The invariant -/

theorem finishHostWrite_slots_wf (s : State) (h : Memory.wf s.slots = true) :
    Memory.wf (finishHostWrite s).slots = true := by
  cases hw : s.hostWrite with
  | none => rwa [finishHostWrite_none s hw]
  | some w => rw [finishHostWrite_some s w hw]; exact wf_writeHalf _ _ _ _ h

theorem cursor_of_slot_lt (j : Fin 10) : (BitVec.ofNat 4 j.val).toNat < 10 := by
  fin_cases j <;> decide

theorem finishHostWrite_cursor_lt (s : State) (h : s.cursor.toNat < 10) : (finishHostWrite s).cursor.toNat < 10 := by
  cases hw : s.hostWrite with
  | none => rwa [finishHostWrite_none s hw]
  | some w => rw [finishHostWrite_some s w hw]; exact cursor_of_slot_lt w.slot

section
variable {s t : State} (hs : s.Inv) (hstep : step s = .next t)
include hs hstep

theorem step_slots_wf : Memory.wf t.slots = true := by
  have hwf := hs.slots_wf
  cases stepKind_of_step hstep with
  | halfWrite => exact finishHostWrite_slots_wf _ hwf
  | wholeSlot j v => exact wf_writeSlot _ j v hwf
  | firstHalf j v half => exact wf_writeHalf _ j half _ hwf
  | reset => rfl
  | compute | sample | setDuty | ikGoal | enterTick | pendTick | quiet => simpa

theorem step_cursor_lt : t.cursor.toNat < 10 := by
  have hlt := hs.cursor_lt
  cases stepKind_of_step hstep with
  | halfWrite => exact finishHostWrite_cursor_lt _ hlt
  | wholeSlot j => exact cursor_of_slot_lt j
  | reset => exact Nat.zero_lt_succ 9
  | compute | sample | firstHalf | setDuty | ikGoal | enterTick | pendTick | quiet => simpa

theorem step_pending_only_in_tick : t.tickPhase = .idle → t.tickPending = false := by
  have hpend := hs.pending_only_in_tick
  cases stepKind_of_step hstep with
  | compute => exact fun _ => compute_tickPending _
  | enterTick => exact nofun
  | pendTick _ hp => exact fun hidle => by simp [hp] at hidle
  | reset => exact fun _ => rfl
  | halfWrite | sample | wholeSlot | firstHalf | setDuty | ikGoal | quiet => simpa

theorem step_half_only_if_torn : t.hostWrite.isSome = true → t.params.tearBits = .b16 := by
  have htorn := hs.half_only_if_torn
  rw [(noStepChangesAConstant s t hstep).1]
  cases stepKind_of_step hstep with
  | halfWrite => simp
  | firstHalf _ _ _ _ h => exact fun _ => h
  | reset => exact nofun
  | compute | sample | wholeSlot | setDuty | ikGoal | enterTick | pendTick | quiet => simpa

end

/-- Settles O54: each of the four parts by the kinds of step. -/
theorem everyStepKeepsTheInvariant : Obligations.EveryStepKeepsTheInvariant := fun _ _ hs hstep =>
  ⟨step_slots_wf hs hstep, step_cursor_lt hs hstep, step_pending_only_in_tick hs hstep, step_half_only_if_torn hs hstep⟩

end Sys2Proof.Machine
end

section
/-! The halves of the snapshot that the tick in progress has not sampled are never seen (10_state.md R30): every operation of
a step takes two states that agree but for such halves to two such states. -/

namespace Sys2Proof.Machine

open Sys2Proof.Config

/-- The state with another snapshot. -/
def State.withSnap (s : State) (v : Vector U16 26) : State := { s with snap := v }

section
variable (s : State) (v : Vector U16 26)

@[simp] theorem withSnap_params : (s.withSnap v).params = s.params := rfl
@[simp] theorem withSnap_snapDone : (s.withSnap v).snapDone = s.snapDone := rfl
@[simp] theorem withSnap_tickPhase : (s.withSnap v).tickPhase = s.tickPhase := rfl

end

/-- The relation as a replacement of the snapshot by one that agrees on the halves sampled. -/
theorem sameButUnsampled_iff (s t : State) :
    SameButUnsampled s t ↔ ∃ v, t = s.withSnap v ∧ ∀ k : Fin 26, s.hasSampled k → v[k.val] = s.snap[k.val] := by
  constructor
  · exact fun ⟨ht, hk⟩ => ⟨t.snap, ht, hk⟩
  · rintro ⟨v, rfl, hk⟩
    exact ⟨rfl, hk⟩

theorem SameButUnsampled.refl (s : State) : SameButUnsampled s s := ⟨rfl, fun _ _ => rfl⟩

/-- What is related to a state whose tick has sampled everything is that state. -/
theorem SameButUnsampled.eq_of_allSampled {s t : State} (h : SameButUnsampled s t)
    (hall : s.tickPhase = .sampling ∧ s.snapDone = BitVec.allOnes 26) : t = s := by
  obtain ⟨v, rfl, hk⟩ := (sameButUnsampled_iff s t).1 h
  have hv : v = s.snap := by
    refine Vector.ext fun k hlt => hk ⟨k, hlt⟩ ⟨hall.1, ?_⟩
    rw [hall.2, BitVec.getLsbD_allOnes]
    exact decide_eq_true hlt
  rw [hv]
  rfl

/-! ### Operations that neither read nor write the snapshot -/

/-- `f` passes the snapshot through unread, and counts no half as sampled that was not. -/
structure SnapBlind (f : State → State) : Prop where
  passes : ∀ s v, f (s.withSnap v) = (f s).withSnap v
  samples_nothing : ∀ s k, (f s).hasSampled k → s.hasSampled k

theorem SnapBlind.snap_eq {f : State → State} (hf : SnapBlind f) (s : State) : (f s).snap = s.snap := by
  have h : f s = (f s).withSnap s.snap := hf.passes s s.snap
  rw [h]
  rfl

theorem SnapBlind.comp {f g : State → State} (hf : SnapBlind f) (hg : SnapBlind g) : SnapBlind fun s => f (g s) where
  passes s v := by rw [hg.passes, hf.passes]
  samples_nothing s k h := hg.samples_nothing s k (hf.samples_nothing (g s) k h)

theorem SnapBlind.same {f : State → State} (hf : SnapBlind f) {s t : State} (h : SameButUnsampled s t) :
    SameButUnsampled (f s) (f t) := by
  obtain ⟨v, rfl, hk⟩ := (sameButUnsampled_iff s t).1 h
  refine (sameButUnsampled_iff _ _).2 ⟨v, hf.passes s v, fun k hs => ?_⟩
  rw [hk k (hf.samples_nothing s k hs), getElem_congr_coll (hf.snap_eq s)]

theorem snapBlind_clearPort : SnapBlind clearPort := ⟨fun _ _ => rfl, fun _ _ h => h⟩

theorem snapBlind_takeMove (rest : List Move) : SnapBlind (takeMove rest) := ⟨fun _ _ => rfl, fun _ _ h => h⟩

theorem snapBlind_arrive (split : Option Half) (rest : List Move) : SnapBlind (arrive split rest) :=
  ⟨fun _ _ => rfl, fun _ _ h => h⟩

theorem snapBlind_emit (r : ObsRecord) : SnapBlind (emit r) := ⟨fun _ _ => rfl, fun _ _ h => h⟩

theorem snapBlind_answerStatus (i : Fin 10) : SnapBlind (answerStatus i) := ⟨fun _ _ => rfl, fun _ _ h => h⟩

theorem snapBlind_drivePose (p : Option Pose) : SnapBlind fun s => { s with posePort := p } :=
  ⟨fun _ _ => rfl, fun _ _ h => h⟩

theorem snapBlind_draw : SnapBlind fun s => { s with draws := s.draws + 1 } := ⟨fun _ _ => rfl, fun _ _ h => h⟩

theorem snapBlind_pendTick : SnapBlind fun s => { s with tickPending := true } := ⟨fun _ _ => rfl, fun _ _ h => h⟩

theorem snapBlind_enterTick : SnapBlind enterTick := ⟨fun _ _ => rfl, fun _ _ h => by simp [State.hasSampled] at h⟩

theorem snapBlind_finishHostWrite : SnapBlind finishHostWrite where
  passes s v := by
    cases hw : s.hostWrite with
    | none => rw [finishHostWrite_none s hw, finishHostWrite_none (s.withSnap v) hw]
    | some w =>
      rw [finishHostWrite_some s w hw, finishHostWrite_some (s.withSnap v) w hw]
      rfl
  samples_nothing s k h := by simpa [State.hasSampled] using h

theorem snapBlind_setSlot (i : Fin 10) (x : F32) : SnapBlind (setSlot i x) where
  passes s v := by
    rcases writesWhole_or_split s with hw | ⟨half, ht, hs⟩
    · rw [setSlot_whole i x s hw, setSlot_whole i x (s.withSnap v) hw]
      rfl
    · rw [setSlot_split i x half s ht hs, setSlot_split i x half (s.withSnap v) ht hs]
      rfl
  samples_nothing s k h := by
    rcases setSlot_cases i x s with hset | ⟨half, -, -, hset⟩ <;> rwa [hset] at h

theorem snapBlind_driveChannel (c : Channel) (p : F32) : SnapBlind (driveChannel c p) where
  passes s v := by
    cases hp : dutyOutOfRange s.params.fp p with
    | false =>
      rw [driveChannel_in c p s hp, driveChannel_in c p (s.withSnap v) hp]
      cases c <;> rfl
    | true =>
      rw [driveChannel_out c p s hp, driveChannel_out c p (s.withSnap v) hp]
      cases c <;> rfl
  samples_nothing s k h := by simpa [State.hasSampled] using h

theorem snapBlind_setDuty (c : Channel) (p : F32) : SnapBlind (setDuty c p) :=
  (snapBlind_emit _).comp (snapBlind_driveChannel c p)

theorem snapBlind_ikGoalWith (g : GoalSeekFunctions) (start goal : Pose) : SnapBlind (ikGoalWith g start goal) where
  passes s v := by
    simp only [ikGoalWith, goalOut, withSnap_params, (snapBlind_driveChannel _ _).passes, (snapBlind_emit _).passes]
  samples_nothing s k h := by simpa [State.hasSampled, ikGoalWith, goalOut] using h

/-! ### The steps of the tick agent -/

theorem sampleBit_same (k : Fin 26) {s t : State} (h : SameButUnsampled s t) :
    SameButUnsampled (sampleBit k s) (sampleBit k t) := by
  obtain ⟨v, rfl, hv⟩ := (sameButUnsampled_iff s t).1 h
  refine ⟨rfl, fun j ⟨hp, hd⟩ => ?_⟩
  rw [snap_sampleBit k _ j j.isLt, snap_sampleBit k s j j.isLt]
  split
  next => rfl
  next hne =>
    rw [snapDone_sampleBit k s j j.isLt] at hd
    exact hv j ⟨hp, by simpa [hne] using hd⟩

theorem sampleStep_same (k : Fin 26) {s t : State} (h : SameButUnsampled s t) :
    SameButUnsampled (sampleStep k s) (sampleStep k t) := by
  obtain ⟨v, rfl, -⟩ := (sameButUnsampled_iff s t).1 h
  cases htear : s.params.tearBits with
  | b16 =>
    rw [sampleStep_b16 k s htear, sampleStep_b16 k (s.withSnap v) htear]
    exact sampleBit_same k h
  | b32 =>
    rw [sampleStep_b32 k s htear, sampleStep_b32 k (s.withSnap v) htear]
    exact sampleBit_same _ (sampleBit_same _ h)

theorem tryCompute_same {s t : State} (h : SameButUnsampled s t) : SameButUnsampled (tryCompute s) (tryCompute t) := by
  by_cases hall : s.tickPhase = .sampling ∧ s.snapDone = BitVec.allOnes 26
  · rw [h.eq_of_allSampled hall]
    exact .refl _
  · obtain ⟨v, rfl, -⟩ := (sameButUnsampled_iff s t).1 h
    rwa [tryCompute_disabled s hall, tryCompute_disabled (s.withSnap v) hall]

theorem tickAgent_same {s t : State} (h : SameButUnsampled s t) : SameButUnsampled (tickAgent s) (tickAgent t) := by
  by_cases hall : s.tickPhase = .sampling ∧ s.snapDone = BitVec.allOnes 26
  · rw [h.eq_of_allSampled hall]
    exact .refl _
  · obtain ⟨v, rfl, -⟩ := (sameButUnsampled_iff s t).1 h
    by_cases hp : s.tickPhase = .sampling
    · have hd : s.snapDone ≠ BitVec.allOnes 26 := fun hd => hall ⟨hp, hd⟩
      rw [tickAgent_samples s hp hd, tickAgent_samples (s.withSnap v) hp hd]
      exact sampleStep_same (freePick s) (snapBlind_draw.same h)
    · have hp := idle_of_ne_sampling hp
      rwa [tickAgent_idle s hp, tickAgent_idle (s.withSnap v) hp]

theorem agentMove_same (m : Move) {s t : State} (h : SameButUnsampled s t) :
    SameButUnsampled (agentMove m s) (agentMove m t) := by
  cases m with
  | event split word => exact h
  | hostHalf => exact snapBlind_finishHostWrite.same h
  | sample k =>
    obtain ⟨v, rfl, -⟩ := (sameButUnsampled_iff s t).1 h
    by_cases hon : s.tickPhase = .sampling ∧ s.snapDone.getLsbD k.val = false
    · rw [agentMove, agentMove, trySample_enabled k s hon.1 hon.2, trySample_enabled k (s.withSnap v) hon.1 hon.2]
      exact sampleStep_same k h
    · rwa [agentMove, agentMove, trySample_disabled k s hon, trySample_disabled k (s.withSnap v) hon]
  | compute => exact tryCompute_same h
  | pose p => exact (snapBlind_drivePose p).same h

/-! ### Events and whole steps -/

/-- Two outcomes that are not told apart: next states that agree but for halves not sampled, or the same refusal. -/
inductive SameOutcome : Host.Outcome State Fault Refusal → Host.Outcome State Fault Refusal → Prop
  | next {s t : State} (h : SameButUnsampled s t) : SameOutcome (.next s) (.next t)
  | refused (r : Refusal) : SameOutcome (.refused r) (.refused r)

theorem getStatus_same {s t : State} (h : SameButUnsampled s t) : SameOutcome (getStatus s) (getStatus t) := by
  obtain ⟨v, rfl, -⟩ := (sameButUnsampled_iff s t).1 h
  by_cases hc : s.cursor.toNat < 10
  · rw [getStatus_of_lt s hc, getStatus_of_lt (s.withSnap v) hc]
    exact .next ((snapBlind_answerStatus _).same h)
  · rw [getStatus_of_not_lt s hc, getStatus_of_not_lt (s.withSnap v) hc]
    exact .refused _

theorem exec_same (i : Instr) {s t : State} (h : SameButUnsampled s t) : SameOutcome (exec i s) (exec i t) := by
  rcases instr_kinds i with ⟨j, v, rfl⟩ | ⟨k, rfl⟩ | ⟨c, p, rfl⟩ | ⟨xs, ys, ths, xg, yg, thg, rfl⟩ | rfl | rfl | hi
  · rw [exec_slotEvent, exec_slotEvent]
    exact .next ((snapBlind_setSlot j v).same h)
  · rw [exec_statusEvent, exec_statusEvent]
    exact getStatus_same h
  · rw [exec_dutyEvent, exec_dutyEvent]
    exact .next ((snapBlind_setDuty c p).same h)
  · exact .next ((snapBlind_ikGoalWith _ _ _).same h)
  · obtain ⟨v, rfl, -⟩ := (sameButUnsampled_iff s t).1 h
    cases hp : s.tickPhase with
    | idle =>
      rw [exec_tick1ms_idle s hp, exec_tick1ms_idle (s.withSnap v) hp]
      exact .next (snapBlind_enterTick.same h)
    | sampling =>
      rw [exec_tick1ms_sampling s hp, exec_tick1ms_sampling (s.withSnap v) hp]
      exact .next (snapBlind_pendTick.same h)
  · obtain ⟨v, rfl, -⟩ := (sameButUnsampled_iff s t).1 h
    exact .next (.refl (resetBlock s))
  · rw [hi, hi]
    exact .next h

/-- The step of an event word, whatever it decodes to. -/
theorem step_event_same {s t : State} (h : SameButUnsampled s t) (split : Option Half) (word : List Byte)
    (rest : List Move) (hin : s.input = .event split word :: rest) : SameOutcome (step s) (step t) := by
  have hin' : t.input = .event split word :: rest := by rw [h.1]; exact hin
  have hwrite : t.hostWrite = s.hostWrite := by rw [h.1]
  cases hd : decode word with
  | error e =>
    rw [step_event_refused s split word rest e hin hd, step_event_refused t split word rest e hin' hd]
    exact .refused _
  | ok i =>
    by_cases hw : i.port = .host → s.hostWrite = none
    · rw [step_event s split word rest i hin hd hw, step_event t split word rest i hin' hd (hwrite ▸ hw)]
      exact exec_same i ((snapBlind_arrive split rest).same h)
    · obtain ⟨hp, hsome⟩ := Classical.not_imp.1 hw
      have hsome : s.hostWrite.isSome = true := Option.isSome_iff_ne_none.2 hsome
      rw [step_event_waits s split word rest i hin hd hp hsome,
        step_event_waits t split word rest i hin' hd hp (hwrite ▸ hsome)]
      exact .next (snapBlind_finishHostWrite.same (snapBlind_clearPort.same h))

theorem step_same {s t : State} (h : SameButUnsampled s t) : SameOutcome (step s) (step t) := by
  have hinput : t.input = s.input := by rw [h.1]
  cases hin : s.input with
  | nil =>
    rw [step_nil s hin, step_nil t (hinput.trans hin)]
    exact .next (tickAgent_same (snapBlind_clearPort.same h))
  | cons m rest =>
    by_cases hm : ∃ split word, m = .event split word
    · obtain ⟨split, word, rfl⟩ := hm
      exact step_event_same h split word rest hin
    · have hm : ∀ split word, m ≠ .event split word := fun split word he => hm ⟨split, word, he⟩
      rw [step_agentMove s m rest hin hm, step_agentMove t m rest (hinput.trans hin) hm]
      exact .next (agentMove_same m ((snapBlind_takeMove rest).same h))

/-- Settles O49: the outcomes of the two steps are not told apart. -/
theorem unsampledValuesAreNeverSeen : Obligations.UnsampledValuesAreNeverSeen := by
  intro s t h
  have hsame := step_same h
  constructor
  · intro s' hs
    rw [hs] at hsame
    generalize step t = out at hsame
    cases hsame with
    | next h' => exact ⟨_, rfl, h'⟩
  · intro r hs
    rw [hs] at hsame
    generalize step t = out at hsame
    cases hsame
    rfl

end Sys2Proof.Machine
end

section
/-! The host's accesses to the slots: the two half-writes of a SET_SLOT, and GET_STATUS outside the region (20_memory.md R51,
R55; 40_host_commands.md R90). -/

namespace Sys2Proof.Machine

/-! ### One half of a slot -/

theorem readHalf_writeHalf_same (m : Memory) (i : Fin 10) (h : Half) (v : U16) (hw : Memory.wf m = true) :
    Memory.readHalf (Memory.writeHalf m i h v) i h = v := by
  simp [readHalf_writeHalf m i i h h v hw]

/-- A half-write stores no byte but the two of its half (20_memory.md R52). -/
theorem readByte_writeHalf_outside (m : Memory) (i : Fin 10) (h : Half) (v : U16) (a : Nat) (hw : Memory.wf m = true)
    (ha : a < halfOffset i h ∨ halfOffset i h + 2 ≤ a) :
    Memory.readByte (Memory.writeHalf m i h v) a = Memory.readByte m a := by
  rw [readByte_writeHalf m i h v a hw, if_neg (by omega), if_neg (by omega)]

/-! ### The moves of a SET_SLOT -/

theorem decode_encode_slotEvent (i : Fin 10) (v : F32) : decode (encode (slotEvent i v)) = .ok (slotEvent i v) := by
  have hfields : operandsOf (bytesOfOperand v) = some [v] := by simpa using operandsOf_bytes [v]
  fin_cases i <;> simp [slotEvent, encode, Instr.code, Instr.operands, decode, shapeOf, hfields]

/-- The step of a SET_SLOT that need not wait. -/
theorem step_slotEvent (s : State) (split : Option Half) (i : Fin 10) (v : F32) (rest : List Move)
    (hin : s.input = .event split (encode (slotEvent i v)) :: rest) (hw : s.hostWrite = none) :
    step s = .next (setSlot i v (arrive split rest s)) := by
  rw [step_event s split _ rest _ hin (decode_encode_slotEvent i v) fun _ => hw, exec_slotEvent]

/-- The step of a SET_SLOT that the schedule splits (20_memory.md R55). -/
theorem step_slotEvent_split (s : State) (i : Fin 10) (v : F32) (h : Half) (rest : List Move)
    (hin : s.input = .event (some h) (encode (slotEvent i v)) :: rest) (hw : s.hostWrite = none)
    (ht : s.params.tearBits = .b16) : step s = .next (writeFirstHalf i v h (arrive (some h) rest s)) := by
  rw [step_slotEvent s _ i v rest hin hw, setSlot_split i v h (arrive (some h) rest s) ht rfl]

theorem step_hostHalf (s : State) (rest : List Move) (hin : s.input = .hostHalf :: rest) :
    step s = .next (finishHostWrite (takeMove rest s)) :=
  step_agentMove s .hostHalf rest hin nofun

/-- The second half-write, in a memory `m` that the first one alone has changed, completes the write of the slot. -/
theorem finishHostWrite_of_first_half (s : State) (m : Memory) (i : Fin 10) (v : F32) (h : Half) (hwf : Memory.wf m = true)
    (hs : s.slots = Memory.writeHalf m i h (halfOf v h)) (hw : s.hostWrite = some ⟨i, h.other, halfOf v h.other⟩) :
    finishHostWrite s = noteSlotWritten i { s with slots := Memory.writeSlot m i v, hostWrite := none } := by
  rw [finishHostWrite_some s _ hw, hs, writeHalf_writeHalf_other m i v h hwf]

/-- The two half-writes with nothing between them are the write in one piece (20_memory.md R55). -/
theorem finishHostWrite_writeFirstHalf (i : Fin 10) (v : F32) (h : Half) (s : State) (hwf : Memory.wf s.slots = true)
    (hw : s.hostWrite = none) : finishHostWrite (writeFirstHalf i v h s) = writeWholeSlot i v s := by
  rw [finishHostWrite_of_first_half _ s.slots i v h hwf rfl rfl, ← hw]
  rfl

/-! ### The statements -/

/-- Settles O11: the event is the first half-write, whose rules say what it stores. -/
theorem aSplitSetSlotWritesOneHalf : Obligations.ASplitSetSlotWritesOneHalf := fun i v h s hwf ht hs =>
  ⟨writeFirstHalf i v h s, by rw [exec_slotEvent, setSlot_split i v h s ht hs], readHalf_writeHalf_same _ i h _ hwf,
    fun a ha => readByte_writeHalf_outside _ i h _ a hwf ha, rfl, rfl⟩

/-- Settles O12: the move is the half-write the host owes. -/
theorem theSecondHalfCompletesTheWrite : Obligations.TheSecondHalfCompletesTheWrite := by
  intro s w rest hwf hw hin
  refine ⟨_, step_hostHalf s rest hin, ?_⟩
  rw [finishHostWrite_some (takeMove rest s) w hw]
  exact ⟨readHalf_writeHalf_same _ _ _ _ hwf, fun a ha => readByte_writeHalf_outside _ _ _ _ a hwf ha, rfl, rfl, rfl⟩

/-- Settles O13: both runs end in the write in one piece; only the schedule's word on splitting tells them apart. -/
theorem aSplitWriteEndsAsAWholeOne : Obligations.ASplitWriteEndsAsAWholeOne := by
  intro i v h s rest hwf ht hw
  have hfirst := step_slotEvent_split { s with input := .event (some h) (encode (slotEvent i v)) :: .hostHalf :: rest }
    i v h _ rfl hw ht
  have hsecond := step_hostHalf (writeFirstHalf i v h (arrive (some h) (.hostHalf :: rest) s)) rest rfl
  have hwhole := step_slotEvent { s with input := .event none (encode (slotEvent i v)) :: rest } none i v rest rfl hw
  rw [setSlot_whole i v _ (.inl rfl)] at hwhole
  refine ⟨_, _, (stepN_of_step 1 _ _ hfirst).trans (stepN_of_step 0 _ _ hsecond), stepN_of_step 0 _ _ hwhole, ?_⟩
  exact finishHostWrite_writeFirstHalf i v h (arrive (some h) rest s) hwf hw

/-- Settles O16: such a CURSOR names no slot. -/
theorem getStatusOutsideTheSlotsIsRefused : Obligations.GetStatusOutsideTheSlotsIsRefused := fun k s hc => by
  rw [exec_statusEvent, getStatus_of_not_lt s (by omega)]

end Sys2Proof.Machine
end

section
/-! Sampling (20_memory.md R54, R58 to R60): what one sampling step and a run of them read, in any order and with either
TEAR_BITS, and what a racing write makes of it (R55). -/

namespace Sys2Proof.Machine

open Sys2Proof.Config

/-! ### What a sampling step reads -/

/-- What is read for bit `k` is no draw: a half of a slot, or of a driven pose (10_state.md R33). -/
def State.readsFixed (s : State) (k : Fin 26) : Prop := k.val / 2 < 10 ∨ s.posePort.isSome = true

/-- What is read, where it is no draw, depends on the slots and the pose port alone. -/
theorem readSampled_congr {s t : State} {k : Fin 26} (hslots : t.slots = s.slots) (hport : t.posePort = s.posePort)
    (hk : s.readsFixed k) : readSampled k t = readSampled k s := by
  by_cases hlt : k.val / 2 < 10
  · rw [readSampled_slot k t hlt, readSampled_slot k s hlt, hslots]
  · obtain ⟨p, hp⟩ := Option.isSome_iff_exists.1 (hk.resolve_left hlt)
    rw [readSampled_pose k t p hlt (hport.trans hp), readSampled_pose k s p hlt hp]

theorem drawsAfterSample_of_readsFixed {s : State} {k : Fin 26} (hk : s.readsFixed k) : drawsAfterSample k s = s.draws := by
  unfold drawsAfterSample
  rcases hk with h | h <;> simp [h]

/-! ### Sampling the halves of a set -/

/-- `t` is `s` once the halves of `bits` have been sampled: those hold what was read, and nothing else has changed but the
count of draws. -/
structure Samples (bits : Set (Fin 26)) (s t : State) : Prop where
  frame : t = { s with snap := t.snap, snapDone := t.snapDone, draws := t.draws }
  done : ∀ j ∈ bits, t.snapDone.getLsbD j.val = true
  holds : ∀ j ∈ bits, s.readsFixed j → t.snap[j.val] = readSampled j s
  kept : ∀ j ∉ bits, t.snapDone.getLsbD j.val = s.snapDone.getLsbD j.val ∧ t.snap[j.val] = s.snap[j.val]
  draws : (∀ j ∈ bits, s.readsFixed j) → t.draws = s.draws

namespace Samples

variable {bits more : Set (Fin 26)} {s t u : State}

theorem refl (s : State) : Samples ∅ s s := ⟨rfl, nofun, nofun, fun _ _ => ⟨rfl, rfl⟩, fun _ => rfl⟩

theorem slots_eq (h : Samples bits s t) : t.slots = s.slots := by rw [h.frame]

theorem posePort_eq (h : Samples bits s t) : t.posePort = s.posePort := by rw [h.frame]

theorem tickPhase_eq (h : Samples bits s t) : t.tickPhase = s.tickPhase := by rw [h.frame]

theorem hostWrite_eq (h : Samples bits s t) : t.hostWrite = s.hostWrite := by rw [h.frame]

theorem trace_eq (h : Samples bits s t) : t.trace = s.trace := by rw [h.frame]

theorem statusPort_eq (h : Samples bits s t) : t.statusPort = s.statusPort := by rw [h.frame]

theorem input_eq (h : Samples bits s t) : t.input = s.input := by rw [h.frame]

theorem keeps_readsFixed (h : Samples bits s t) {j : Fin 26} (hj : s.readsFixed j) : t.readsFixed j := by
  rwa [State.readsFixed, h.posePort_eq]

/-- A bit that is set stays set. -/
theorem done_of_done (h : Samples bits s t) {j : Fin 26} (hs : s.snapDone.getLsbD j.val = true) :
    t.snapDone.getLsbD j.val = true := by
  by_cases hj : j ∈ bits
  · exact h.done j hj
  · exact (h.kept j hj).1.trans hs

/-- First the halves of one set, then those of another. -/
theorem trans (hst : Samples bits s t) (htu : Samples more t u) : Samples (bits ∪ more) s u where
  frame := by rw [htu.frame, hst.frame]
  done j hj := by
    by_cases hmore : j ∈ more
    · exact htu.done j hmore
    · rw [(htu.kept j hmore).1]
      exact hst.done j (hj.resolve_right hmore)
  holds j hj hfixed := by
    by_cases hmore : j ∈ more
    · rw [htu.holds j hmore (hst.keeps_readsFixed hfixed), readSampled_congr hst.slots_eq hst.posePort_eq hfixed]
    · rw [(htu.kept j hmore).2]
      exact hst.holds j (hj.resolve_right hmore) hfixed
  kept j hj := by
    obtain ⟨hbits, hmore⟩ := not_or.1 hj
    exact ⟨(htu.kept j hmore).1.trans (hst.kept j hbits).1, (htu.kept j hmore).2.trans (hst.kept j hbits).2⟩
  draws hfixed :=
    (htu.draws fun j hj => hst.keeps_readsFixed (hfixed j (.inr hj))).trans (hst.draws fun j hj => hfixed j (.inl hj))

theorem takeMove (h : Samples bits s t) (rest : List Move) : Samples bits (takeMove rest s) (takeMove rest t) where
  frame := congrArg (Machine.takeMove rest) h.frame
  done := h.done
  holds := h.holds
  kept := h.kept
  draws := h.draws

/-- A half sampled on the way holds what was read for it at the outset. -/
theorem snap_eq (h : Samples bits s t) {j : Fin 26} (hs : s.snapDone.getLsbD j.val = false)
    (ht : t.snapDone.getLsbD j.val = true) (hfixed : s.readsFixed j) : t.snap[j.val] = readSampled j s := by
  refine h.holds j ?_ hfixed
  by_contra hj
  exact Bool.false_ne_true (hs.symm.trans ((h.kept j hj).1.symm.trans ht))

end Samples

theorem samples_sampleBit (k : Fin 26) (s : State) : Samples {k} s (sampleBit k s) where
  frame := rfl
  done j hj := by simp [Set.mem_singleton_iff.1 hj]
  holds j hj _ := by simp [Set.mem_singleton_iff.1 hj]
  kept j hj := by
    have hne : k.val ≠ j.val := fun hkj => hj (Fin.ext hkj.symm)
    rw [snapDone_sampleBit k s j.val j.isLt, snap_sampleBit k s j.val j.isLt]
    simp [hne]
  draws hfixed := drawsAfterSample_of_readsFixed (hfixed k rfl)

/-- The bits whose halves the sampling step of bit `k` reads (20_memory.md R54). -/
def sampledWith (tear : TearBits) (k : Fin 26) : Set (Fin 26) :=
  {j | j = k ∨ (tear = .b32 ∧ j.val / 2 = k.val / 2)}

theorem sampledWith_b16 (k : Fin 26) : sampledWith .b16 k = {k} := by
  ext j
  simp [sampledWith]

theorem sampledWith_b32 (k : Fin 26) : sampledWith .b32 k = {loBit k} ∪ {hiBit k} := by
  ext j
  simp only [sampledWith, loBit, hiBit, Set.mem_ofPred_eq, Set.mem_union, Set.mem_singleton_iff, Fin.ext_iff, true_and]
  omega

theorem samples_sampleStep (k : Fin 26) (s : State) : Samples (sampledWith s.params.tearBits k) s (sampleStep k s) := by
  cases htear : s.params.tearBits with
  | b16 =>
    rw [sampleStep_b16 k s htear, sampledWith_b16]
    exact samples_sampleBit k s
  | b32 =>
    rw [sampleStep_b32 k s htear, sampledWith_b32]
    exact (samples_sampleBit _ s).trans (samples_sampleBit _ _)

/-- A sampling step the schedule picks: whether it was enabled or not, its bit is set afterwards. -/
theorem exists_samples_trySample (k : Fin 26) (s : State) (hp : s.tickPhase = .sampling) :
    ∃ bits, Samples bits s (trySample k s) ∧ (trySample k s).snapDone.getLsbD k.val = true := by
  cases hk : s.snapDone.getLsbD k.val with
  | true =>
    rw [trySample_done k s hk]
    exact ⟨∅, .refl s, hk⟩
  | false =>
    have h := samples_sampleStep k s
    rw [trySample_enabled k s hp hk]
    exact ⟨_, h, h.done k (.inl rfl)⟩

/-! ### Runs of sampling steps -/

theorem step_sample (s : State) (k : Fin 26) (rest : List Move) (hin : s.input = .sample k :: rest) :
    step s = .next (trySample k (takeMove rest s)) :=
  step_agentMove s (.sample k) rest hin nofun

/-- The sampling steps of any list of bits, one after another. -/
theorem stepN_samples (order : List (Fin 26)) (rest : List Move) (s : State)
    (hin : s.input = order.map Move.sample ++ rest) (hport : s.statusPort = none) (hp : s.tickPhase = .sampling) :
    ∃ bits t, stepN order.length s = .next t ∧ Samples bits (takeMove rest s) t ∧
      ∀ k ∈ order, t.snapDone.getLsbD k.val = true := by
  induction order generalizing s with
  | nil =>
    have hs : takeMove rest s = s := by
      rw [takeMove, ← hport, show rest = s.input from hin.symm]
    exact ⟨∅, s, rfl, hs.symm ▸ Samples.refl s, nofun⟩
  | cons k order ih =>
    have hstep := step_sample s k _ hin
    obtain ⟨first, hfirst, hk⟩ := exists_samples_trySample k (takeMove (order.map Move.sample ++ rest) s) hp
    obtain ⟨bits, t, hrun, hst, hdone⟩ := ih _ hfirst.input_eq hfirst.statusPort_eq
      (hfirst.tickPhase_eq.trans hp)
    refine ⟨first ∪ bits, t, (stepN_of_step _ _ _ hstep).trans hrun, (hfirst.takeMove rest).trans hst,
      List.forall_mem_cons.2 ⟨hst.done_of_done hk, hdone⟩⟩

/-! ### The snapshot -/

theorem snapDone_eq_allOnes {s : State} (h : ∀ k : Fin 26, s.snapDone.getLsbD k.val = true) :
    s.snapDone = BitVec.allOnes 26 :=
  BitVec.eq_of_getLsbD_eq fun k hk => by rw [h ⟨k, hk⟩, BitVec.getLsbD_allOnes, decide_eq_true hk]

/-- The bit of a half of a slot (log entry 13). -/
def slotBit (i : Fin 10) (h : Half) : Fin 26 :=
  match h with
  | .lo => ⟨2 * i.val, by omega⟩
  | .hi => ⟨2 * i.val + 1, by omega⟩

theorem slotBit_div (i : Fin 10) (h : Half) : (slotBit i h).val / 2 = i.val := by
  cases h <;> simp only [slotBit] <;> omega

theorem sampleHalf_slotBit (i : Fin 10) (h : Half) : sampleHalf (slotBit i h) = h := by
  cases h <;> simp only [slotBit, sampleHalf]
  · exact if_pos (by omega)
  · exact if_neg (by omega)

theorem readSampled_slotBit (i : Fin 10) (h : Half) (s : State) :
    readSampled (slotBit i h) s = Memory.readHalf s.slots i h := by
  have hlt : (slotBit i h).val / 2 < 10 := by rw [slotBit_div]; exact i.isLt
  rw [readSampled_slot _ s hlt, sampleHalf_slotBit]
  congr 1
  exact Fin.ext (slotBit_div i h)

/-- A slot both of whose halves were sampled on the way is in the snapshot as it stands in memory. -/
theorem Samples.snapSlot_eq {bits : Set (Fin 26)} {s t : State} (h : Samples bits s t) (i : Fin 10)
    (hs : ∀ half, s.snapDone.getLsbD (slotBit i half).val = false)
    (ht : ∀ half, t.snapDone.getLsbD (slotBit i half).val = true) : t.snapSlot i = s.slot i := by
  have hsnap : ∀ half, t.snap[(slotBit i half).val] = Memory.readHalf s.slots i half := fun half => by
    rw [h.snap_eq (hs half) (ht half) (.inl (by rw [slotBit_div]; exact i.isLt)), readSampled_slotBit]
  exact congrArg₂ joinHalves (hsnap .hi) (hsnap .lo)

/-- A driven pose all of whose halves were sampled on the way is the snapshot's. -/
theorem Samples.snapPose_eq {bits : Set (Fin 26)} {s t : State} (h : Samples bits s t) (p : Pose)
    (hport : s.posePort = some p) (hs : s.snapDone = 0#26) (ht : ∀ k : Fin 26, t.snapDone.getLsbD k.val = true) :
    t.snapPose = p := by
  have hsnap : ∀ k : Fin 26, ¬ k.val / 2 < 10 → t.snap[k.val] = halfOf (p.component (k.val / 2 - 10)) (sampleHalf k) :=
    fun k hk => by
      rw [h.snap_eq (by simp [hs]) (ht k) (.inr (by simp [hport])), readSampled_pose k s p hk hport]
  have hx : joinHalves t.snap[21] t.snap[20] = p.x :=
    (congrArg₂ joinHalves (hsnap 21 (by decide)) (hsnap 20 (by decide))).trans (joinHalves_halfOf p.x)
  have hy : joinHalves t.snap[23] t.snap[22] = p.y :=
    (congrArg₂ joinHalves (hsnap 23 (by decide)) (hsnap 22 (by decide))).trans (joinHalves_halfOf p.y)
  have hth : joinHalves t.snap[25] t.snap[24] = p.th :=
    (congrArg₂ joinHalves (hsnap 25 (by decide)) (hsnap 24 (by decide))).trans (joinHalves_halfOf p.th)
  rw [State.snapPose, hx, hy, hth]

/-! ### The statements -/

/-- Settles O45: the step samples the halves of `sampledWith`, and no half else. -/
theorem aSamplingStepReadsItsHalf : Obligations.ASamplingStepReadsItsHalf := by
  intro s k rest hin hp hk
  have hstep := step_sample s k rest hin
  rw [trySample_enabled k (takeMove rest s) hp hk] at hstep
  have h := samples_sampleStep k (takeMove rest s)
  refine ⟨_, hstep, fun j hj => ⟨h.done j hj, fun hlt => ?_, fun q hq hge => ?_⟩, h.kept, fun hfixed => ?_, fun a => ?_,
    h.frame⟩
  · rw [h.holds j hj (.inl hlt)]
    exact readSampled_slot j _ hlt
  · rw [h.holds j hj (.inr (by simp [hq]))]
    exact readSampled_pose j _ q (by omega) hq
  · refine h.draws fun j hj => ?_
    have hjk : j.val / 2 = k.val / 2 := hj.elim (congrArg fun b : Fin 26 => b.val / 2) And.right
    rwa [State.readsFixed, hjk]
  · rw [h.slots_eq, takeMove_slots]

/-- Settles O46: from the entry to the tick on, every half is sampled once the whole order has been, and nothing else has
changed. -/
theorem withoutARaceTheSnapshotIsTheSlots : Obligations.WithoutARaceTheSnapshotIsTheSlots := by
  intro s order rest hperm hp hin
  have hlen : order.length = 26 := by rw [hperm.length_eq, List.length_finRange]
  have henter := step_event s none [0x40#8] _ .tick1ms hin rfl nofun
  rw [exec_tick1ms_idle (arrive none _ s) hp] at henter
  obtain ⟨bits, t, hrun, h, hdone⟩ := stepN_samples order rest (enterTick (arrive none _ s)) rfl rfl rfl
  have hall : ∀ k : Fin 26, t.snapDone.getLsbD k.val = true := fun k =>
    hdone k (hperm.mem_iff.2 (List.mem_finRange k))
  have hones := snapDone_eq_allOnes hall
  rw [hlen] at hrun
  refine ⟨t, (stepN_of_step 26 _ _ henter).trans hrun, hones, h.tickPhase_eq,
    fun i => h.snapSlot_eq i (by simp) (fun half => hall _), fun p hport => ⟨h.snapPose_eq p hport rfl hall, ?_⟩,
    h.slots_eq, h.input_eq, h.frame⟩
  exact h.draws fun j _ => .inr (by simp [hport])

end Sys2Proof.Machine
end

section
/-! A write that races with the sampling of its slot (20_memory.md R55; 70_reset_and_hazards.md R243). -/

namespace Sys2Proof.Machine

/-- With one of its halves written, a slot reads torn. -/
theorem readSlot_writeHalf (m : Memory) (i : Fin 10) (v : F32) (h : Half) (hwf : Memory.wf m = true) :
    Memory.readSlot (Memory.writeHalf m i h (halfOf v h)) i =
      match h with
      | .hi => joinHalves (halfOf v .hi) (halfOf (Memory.readSlot m i) .lo)
      | .lo => joinHalves (halfOf (Memory.readSlot m i) .hi) (halfOf v .lo) := by
  cases h <;> simp [Memory.readSlot, readHalf_writeHalf _ _ _ _ _ _ hwf, halfOf_joinHalves]

theorem slot_of_slots_eq_writeSlot {s : State} {m : Memory} {i : Fin 10} {v : F32} (hwf : Memory.wf m = true)
    (h : s.slots = Memory.writeSlot m i v) : s.slot i = v := by
  rw [State.slot, h, readSlot_writeSlot m i i v hwf, if_pos rfl]

/-- The two sampling steps of a slot, high half first, in a tick that has sampled neither: the snapshot holds the slot. -/
theorem stepN_sampleSlot (s : State) (i : Fin 10) (rest : List Move)
    (hin : s.input = .sample (slotBit i .hi) :: .sample (slotBit i .lo) :: rest) (hport : s.statusPort = none)
    (hp : s.tickPhase = .sampling) (hs : ∀ half, s.snapDone.getLsbD (slotBit i half).val = false) :
    ∃ bits t, stepN 2 s = .next t ∧ Samples bits (takeMove rest s) t ∧ t.snapSlot i = s.slot i ∧
      ∀ half, t.snapDone.getLsbD (slotBit i half).val = true := by
  obtain ⟨bits, t, hrun, h, hdone⟩ := stepN_samples [slotBit i .hi, slotBit i .lo] rest s hin hport hp
  have hslot : ∀ half, t.snapDone.getLsbD (slotBit i half).val = true
    | .lo => hdone _ (by simp)
    | .hi => hdone _ (by simp)
  exact ⟨bits, t, hrun, h, h.snapSlot_eq i hs hslot, hslot⟩

/-- Four moves: the first half-write of a SET_SLOT, the sampling of its slot, and the second half-write. -/
theorem stepN_tornRead (s : State) (i : Fin 10) (v : F32) (h : Half) (later : List Move)
    (htear : s.params.tearBits = .b16) (hw : s.hostWrite = none) (hp : s.tickPhase = .sampling)
    (hs : ∀ half, s.snapDone.getLsbD (slotBit i half).val = false)
    (hin : s.input = .event (some h) (encode (slotEvent i v)) :: .sample (slotBit i .hi) :: .sample (slotBit i .lo) ::
      .hostHalf :: later) :
    ∃ bits t, stepN 3 s = .next t ∧ stepN 4 s = .next (finishHostWrite (takeMove later t)) ∧
      Samples bits (writeFirstHalf i v h (arrive (some h) (.hostHalf :: later) s)) t ∧
      t.snapSlot i = Memory.readSlot (Memory.writeHalf s.slots i h (halfOf v h)) i ∧
      ∀ half, t.snapDone.getLsbD (slotBit i half).val = true := by
  have hfirst := step_slotEvent_split s i v h _ hin hw htear
  obtain ⟨bits, t, hrun, hsamples, hsnap, hdone⟩ :=
    stepN_sampleSlot (writeFirstHalf i v h (arrive (some h) _ s)) i (.hostHalf :: later) rfl rfl hp hs
  have hrun3 := (stepN_of_step 2 _ _ hfirst).trans hrun
  have hlast := step_hostHalf t later hsamples.input_eq
  exact ⟨bits, t, hrun3, (stepN_add 3 1 _ _ hrun3).trans (stepN_of_step 0 _ _ hlast), hsamples, hsnap, hdone⟩

/-! ### From the compute step to the next tick -/

theorem compute_snapDone (s : State) (h : (compute s).tickPhase = .sampling) : (compute s).snapDone = 0#26 := by
  cases hpend : s.tickPending <;> simp_all [compute, computeWith, driveAll]

theorem compute_input (s : State) : (compute s).input = s.input := by simp [compute, computeWith, driveAll]

theorem compute_trace_length (s : State) : (compute s).trace.length = s.trace.length + 1 := by
  simp [compute, computeWith, driveAll]

/-- After a TICK_1MS in the idle block, or in a tick that has sampled nothing yet, a tick is in progress that has sampled
nothing. -/
theorem exec_tick1ms_unsampled (s : State) (h : s.tickPhase = .sampling → s.snapDone = 0#26) :
    ∃ t, exec .tick1ms s = .next t ∧
      t = { s with tickPhase := .sampling, snapDone := 0#26, tickPending := t.tickPending } := by
  cases hp : s.tickPhase with
  | idle => exact ⟨_, exec_tick1ms_idle s hp, rfl⟩
  | sampling => exact ⟨_, exec_tick1ms_sampling s hp, by rw [← hp, ← h hp]⟩

/-- After the compute step and a TICK_1MS a tick is in progress that has sampled nothing, whether one was pending or not
(60_exceptions.md R205). -/
theorem stepN_compute_tick1ms (s : State) (rest : List Move) (hp : s.tickPhase = .sampling)
    (hd : s.snapDone = BitVec.allOnes 26) (hin : s.input = .compute :: .event none [0x40#8] :: rest) :
    ∃ t, stepN 2 s = .next t ∧ t.tickPhase = .sampling ∧ t.snapDone = 0#26 ∧ t.slots = s.slots ∧
      t.trace.length = s.trace.length + 1 ∧ t.statusPort = none ∧ t.input = rest := by
  have hcompute := step_agentMove s .compute _ hin nofun
  rw [agentMove, tryCompute_enabled (takeMove _ s) hp hd] at hcompute
  have htick := step_event (compute (takeMove _ s)) none [0x40#8] rest .tick1ms (compute_input _) rfl nofun
  obtain ⟨t, hexec, ht⟩ := exec_tick1ms_unsampled (arrive none rest (compute (takeMove _ s))) (compute_snapDone _)
  have hrun := (stepN_of_step 1 _ _ hcompute).trans (stepN_of_step 0 _ _ (htick.trans hexec))
  refine ⟨t, hrun, ?_⟩
  rw [ht]
  exact ⟨rfl, rfl, compute_slots _, compute_trace_length _, rfl, rfl⟩

/-- Settles O47: what the first tick samples is the slot between the two half-writes, what the next one samples is the slot
after them. -/
theorem aRacingReadIsTorn : Obligations.ARacingReadIsTorn := by
  intro s i v h a b later hwf htear hw hp ha hb hsa hsb hin
  obtain rfl : a = slotBit i .lo := Fin.ext ha
  obtain rfl : b = slotBit i .hi := Fin.ext hb
  have hs : ∀ half, s.snapDone.getLsbD (slotBit i half).val = false
    | .lo => hsa
    | .hi => hsb
  obtain ⟨bits, t, hrun3, hrun4, hsamples, hsnap, hdone⟩ := stepN_tornRead s i v h later htear hw hp hs hin
  have hfinish := finishHostWrite_of_first_half (takeMove later t) s.slots i v h hwf
    hsamples.slots_eq hsamples.hostWrite_eq
  have hwritten : (finishHostWrite (takeMove later t)).slots = Memory.writeSlot s.slots i v := by
    rw [hfinish, noteSlotWritten_slots]
  refine ⟨⟨t, _, hrun3, hrun4, ?_, ?_, slot_of_slots_eq_writeSlot hwf hwritten, ?_⟩, fun rest hall hlater => ?_⟩
  · rw [hsnap, readSlot_writeHalf s.slots i v h hwf]
    cases h <;> rfl
  · simp [State.snapSlot]
  · rw [hfinish, noteSlotWritten_cursor]
  · have hones : t.snapDone = BitVec.allOnes 26 := snapDone_eq_allOnes fun k => by
      by_cases hlo : k = slotBit i .lo
      · exact hlo ▸ hdone .lo
      · by_cases hhi : k = slotBit i .hi
        · exact hhi ▸ hdone .hi
        · exact hsamples.done_of_done (hall k hlo hhi)
    obtain ⟨d, hrun6, hphase, hnone, hslots, htrace, hport, hnext⟩ :=
      stepN_compute_tick1ms (finishHostWrite (takeMove later t)) _ (by simp [hsamples.tickPhase_eq, hp])
        (by rw [finishHostWrite_snapDone, takeMove_snapDone, hones])
        (by rw [finishHostWrite_input, takeMove_input, hlater])
    obtain ⟨more, w, hrun8, hagain, hsees, -⟩ := stepN_sampleSlot d i rest hnext hport hphase (by simp [hnone])
    have hd := hslots.trans hwritten
    exact ⟨w, (stepN_add 4 4 _ _ hrun4).trans ((stepN_add 2 2 _ _ hrun6).trans hrun8),
      hsees.trans (slot_of_slots_eq_writeSlot hwf hd), slot_of_slots_eq_writeSlot hwf (hagain.slots_eq.trans hd),
      hagain.tickPhase_eq.trans hphase, by simp [hagain.trace_eq, htrace, hsamples.trace_eq], hagain.input_eq⟩

end Sys2Proof.Machine
end

section
/-! The decoder and the encoder against each other (30_encoding.md R71 to R76). A code byte selects a shape, the bytes after it
are operand fields, and the decoder's event is the shape filled with the fields: each of the three is related to the encoder on
its own. -/

namespace Sys2Proof

/-! ### The operand fields -/

/-- The bytes of a field made from four bytes. -/
theorem bytesOfOperand_operandOf (b3 b2 b1 b0 : Byte) : bytesOfOperand (operandOf b3 b2 b1 b0) = [b3, b2, b1, b0] := by
  have h3 : (b3 ++ b2 ++ b1 ++ b0).extractLsb' 24 8 = b3 := by
    rw [BitVec.extractLsb'_append_eq_of_le (by decide), BitVec.extractLsb'_append_eq_of_le (by decide)]
    exact BitVec.extractLsb'_append_eq_left
  have h2 : (b3 ++ b2 ++ b1 ++ b0).extractLsb' 16 8 = b2 := by
    rw [BitVec.extractLsb'_append_eq_of_le (by decide), BitVec.extractLsb'_append_eq_of_le (by decide)]
    exact BitVec.extractLsb'_append_eq_right
  have h1 : (b3 ++ b2 ++ b1 ++ b0).extractLsb' 8 8 = b1 := by
    rw [BitVec.extractLsb'_append_eq_of_le (by decide)]
    exact BitVec.extractLsb'_append_eq_right
  have h0 : (b3 ++ b2 ++ b1 ++ b0).extractLsb' 0 8 = b0 := BitVec.extractLsb'_append_eq_right
  unfold bytesOfOperand operandOf
  rw [h3, h2, h1, h0]

/-- The fields read from a word have the word's own bytes: no bit is dropped (30_encoding.md R73). -/
theorem flatMap_bytesOfOperand_of_operandsOf (bytes : List Byte) (as : List F32) (h : operandsOf bytes = some as) :
    as.flatMap bytesOfOperand = bytes := by
  induction bytes using operandsOf.induct generalizing as with
  | case1 =>
    cases h
    rfl
  | case2 b3 b2 b1 b0 rest ih =>
    obtain ⟨tail, htail, rfl⟩ := Option.map_eq_some_iff.1 h
    simp [bytesOfOperand_operandOf, ih tail htail]
  | case3 bytes hnil hfield =>
    rw [operandsOf] at h
    · cases h
    · exact hnil
    · exact hfield

/-! ### The shape of a code -/

/-- The event a shape is with the operand fields `as`, if they are as many as its format has (30_encoding.md R72). -/
def Shape.event : Shape → List F32 → Option Instr
  | .e0 i, [] => some i
  | .e1 f, [a] => some (f a)
  | .e6 f, [a0, a1, a2, a3, a4, a5] => some (f a0 a1 a2 a3 a4 a5)
  | _, _ => none

/-- The decoder accepts the words whose shape is an event with their operand fields. -/
theorem decode_cons_eq_ok_iff (code : Byte) (bytes : List Byte) (i : Instr) :
    decode (code :: bytes) = .ok i ↔ ∃ as, operandsOf bytes = some as ∧ (shapeOf code).event as = some i := by
  simp only [decode]
  split
  next hshape => simp [hshape, Shape.event]
  next hshape hfields => simp [hshape, hfields, Shape.event]
  next hshape hfields => simp [hshape, hfields, Shape.event]
  next hshape hfields => simp [hshape, hfields, Shape.event]
  next hno0 hno1 hno6 =>
    refine ⟨nofun, fun ⟨as, hfields, hevent⟩ => ?_⟩
    unfold Shape.event at hevent
    split at hevent
    next hshape => exact (hno0 _ hshape hfields).elim
    next hshape => exact (hno1 _ _ hshape hfields).elim
    next hshape => exact (hno6 _ _ _ _ _ _ _ hshape hfields).elim
    next => cases hevent

theorem decode_cons_of_invalid (code : Byte) (bytes : List Byte) (h : shapeOf code = .invalid) :
    decode (code :: bytes) = .error (.invalidCode code) := by
  simp [decode, h]

/-- Every event of the shape is well-formed and is encoded with the code byte and with the shape's operands. -/
def Shape.Encodes (code : Byte) : Shape → Prop
  | .e0 i => i.wellFormed = true ∧ i.code = code ∧ i.operands = []
  | .e1 f => ∀ a, (f a).wellFormed = true ∧ (f a).code = code ∧ (f a).operands = [a]
  | .e6 f => ∀ a0 a1 a2 a3 a4 a5, (f a0 a1 a2 a3 a4 a5).wellFormed = true ∧ (f a0 a1 a2 a3 a4 a5).code = code ∧
      (f a0 a1 a2 a3 a4 a5).operands = [a0, a1, a2, a3, a4, a5]
  | .invalid => True

/-- The opcode map row by row (30_encoding.md R74, R75). -/
theorem shapeOf_encodes (code : Byte) : (shapeOf code).Encodes code := by
  unfold shapeOf
  split <;> rename_i hcode <;>
    simp [Shape.Encodes, Instr.wellFormed, Instr.code, Instr.operands, ← BitVec.toNat_inj, hcode]

/-- The event that a code and operand fields spell has that code and those operands. -/
theorem encodes_of_event (code : Byte) (as : List F32) (i : Instr) (h : (shapeOf code).event as = some i) :
    i.wellFormed = true ∧ i.code = code ∧ i.operands = as := by
  have hencodes := shapeOf_encodes code
  generalize shapeOf code = shape at h hencodes
  unfold Shape.event at h
  split at h <;> cases h
  · exact hencodes
  · exact hencodes _
  · exact hencodes _ _ _ _ _ _

/-- The four ranges of codes that spell no event (30_encoding.md R76). -/
theorem shapeOf_invalid (code : Byte)
    (h : (0x24 ≤ code.toNat ∧ code.toNat ≤ 0x2F) ∨ (0x31 ≤ code.toNat ∧ code.toNat ≤ 0x3F) ∨
      (0x43 ≤ code.toNat ∧ code.toNat ≤ 0x7E) ∨ 0x80 ≤ code.toNat) : shapeOf code = .invalid := by
  unfold shapeOf
  split
  rotate_right
  · rfl
  all_goals omega

/-- A well-formed event is the shape of its code with its operands. The code of a known event is given, and an unknown code is
one of the few of its range (30_encoding.md R75). -/
theorem event_of_wellFormed (i : Instr) (h : i.wellFormed = true) : (shapeOf i.code).event i.operands = some i := by
  cases i with
  | unknown0A code _ | unknown0C code _ | unknown14 code | unknown18 code =>
    obtain ⟨hlo, hhi⟩ := of_decide_eq_true h
    simp only [Instr.code, shapeOf]
    interval_cases code.toNat <;> rfl
  | _ => rfl

/-! ### The length of a word -/

/-- The length of a word by cases of the group (30_encoding.md R72). -/
theorem wordLength_eq (code : Byte) : wordLength code =
    if code.toNat / 16 = 0 ∨ code.toNat / 16 = 2 then 5 else if code.toNat / 16 = 3 then 25 else 1 := by
  unfold wordLength
  split <;> simp_all

/-- The encoded word of a well-formed event has the length its group tells (30_encoding.md R72). -/
theorem length_encode_eq_wordLength (i : Instr) (h : i.wellFormed = true) : (encode i).length = wordLength i.code := by
  cases i with
  | unknown0A code a => exact Laws.WordLength.unknown0A code a h
  | unknown0C code a => exact Laws.WordLength.unknown0C code a h
  | unknown14 code => exact Laws.WordLength.unknown14 code h
  | unknown18 code => exact Laws.WordLength.unknown18 code h
  | _ => simp [Laws.WordLength.encode_length, Instr.operands, Instr.code, wordLength]

/-! ### The statements -/

/-- Settles O1: the operands are read back from their bytes, and a well-formed event is its code's shape with them. -/
theorem decodeOfEncodeIsTheEvent : Obligations.DecodeOfEncodeIsTheEvent := fun i h =>
  (decode_cons_eq_ok_iff _ _ i).2 ⟨i.operands, operandsOf_bytes i.operands, event_of_wellFormed i h⟩

/-- Settles O2: the event has the word's code and fields, and the fields have the word's bytes. -/
theorem encodeOfDecodeIsTheWord : Obligations.EncodeOfDecodeIsTheWord := by
  intro word i h
  cases word with
  | nil => cases h
  | cons code bytes =>
    obtain ⟨as, hfields, hevent⟩ := (decode_cons_eq_ok_iff code bytes i).1 h
    obtain ⟨hwf, rfl, rfl⟩ := encodes_of_event code as i hevent
    exact ⟨hwf, congrArg (i.code :: ·) (flatMap_bytesOfOperand_of_operandsOf bytes _ hfields)⟩

/-- Settles O5: an accepted word is an encoded one, whose length is its group's. -/
theorem wordLengthFollowsFromTheGroup : Obligations.WordLengthFollowsFromTheGroup := by
  intro code operands i h
  obtain ⟨hwf, hword⟩ := encodeOfDecodeIsTheWord _ i h
  have hlength := length_encode_eq_wordLength i hwf
  obtain ⟨rfl, -⟩ := List.cons.inj hword
  rw [hword, List.length_cons, wordLength_eq] at hlength
  refine ⟨fun hgroup => ?_, fun hgroup => ?_, fun ⟨h0, h2, h3⟩ => List.eq_nil_of_length_eq_zero ?_⟩
  · rw [if_pos hgroup] at hlength
    exact Nat.succ.inj hlength
  · rw [if_neg (by omega), if_pos hgroup] at hlength
    exact Nat.succ.inj hlength
  · rw [if_neg (not_or.2 ⟨h0, h2⟩), if_neg h3] at hlength
    exact Nat.succ.inj hlength

/-- Settles O3: each word is read by computation, in both of its forms. -/
theorem writtenOutWordsDecode : Obligations.WrittenOutWordsDecode := by
  unfold Obligations.WrittenOutWordsDecode
  decide +kernel

end Sys2Proof
end

section
/-! What a step does with the word that comes next: it runs the event the word decodes to, and refuses it if there is none
(30_encoding.md R70, R76). -/

namespace Sys2Proof.Machine

/-- Settles O4: the code has the shape `invalid` whatever follows it, and a refused step ends the run. -/
theorem invalidCodesAreRefused : Obligations.InvalidCodesAreRefused := by
  intro s split code operands rest hcode hin
  have hdecode := decode_cons_of_invalid code operands (shapeOf_invalid code hcode)
  have hstep := step_event_refused s split _ rest _ hin hdecode
  exact ⟨hdecode, hstep, fun k => stepN_of_refused k s _ hstep⟩

/-- Settles O6: it is the step of an event that need not wait. -/
theorem aStepRunsTheDecodedEvent : Obligations.AStepRunsTheDecodedEvent := step_event

/-- Settles O9: every other kind of step goes on, and so does every event, since CURSOR names a slot. -/
theorem onlyWordsThatSpellNoEventAreRefused : Obligations.OnlyWordsThatSpellNoEventAreRefused := by
  intro s r hinv hrefused
  obtain ⟨hgoesOn, -, -⟩ := noEventStopsTheBlock
  cases hin : s.input with
  | nil =>
    rw [step_nil s hin] at hrefused
    cases hrefused
  | cons m rest =>
    cases m with
    | event split word =>
      cases hd : decode word with
      | error e =>
        rw [step_event_refused s split word rest e hin hd] at hrefused
        exact ⟨split, word, rest, e, rfl, hd, (Host.Outcome.refused.inj hrefused).symm⟩
      | ok i =>
        by_cases hw : i.port = .host → s.hostWrite = none
        · obtain ⟨t, ht⟩ := hgoesOn i (arrive split rest s) hinv.cursor_lt
          rw [step_event s split word rest i hin hd hw, ht] at hrefused
          cases hrefused
        · obtain ⟨hp, hsome⟩ := Classical.not_imp.1 hw
          rw [step_event_waits s split word rest i hin hd hp (Option.isSome_iff_ne_none.2 hsome)] at hrefused
          cases hrefused
    | _ =>
      rw [step_agentMove s _ rest hin nofun] at hrefused
      cases hrefused

end Sys2Proof.Machine
end

section
/-! The host commands (40_host_commands.md): a SET_SLOT run through all its moves is the write in one piece, GET_STATUS answers
the slot that CURSOR names, and an unknown host code is an event without effect. -/

namespace Sys2Proof.Machine

/-! ### Writes of a whole slot -/

/-- The second of two equal writes finds all that it writes (40_host_commands.md R107). -/
theorem writeWholeSlot_writeWholeSlot (i : Fin 10) (v : F32) (s : State) (hwf : Memory.wf s.slots = true) :
    writeWholeSlot i v (writeWholeSlot i v s) = writeWholeSlot i v s :=
  congrArg (fun m => noteSlotWritten i { s with slots := m }) (writeSlot_writeSlot s.slots i v hwf)

theorem writeWholeSlot_slot_same (i : Fin 10) (v : F32) (s : State) (hwf : Memory.wf s.slots = true) :
    (writeWholeSlot i v s).slot i = v :=
  slot_of_slots_eq_writeSlot hwf (writeWholeSlot_slots i v s)

/-- The move of a half-write the host does not owe changes nothing (log entry 3). -/
theorem step_hostHalf_idle (s : State) (rest : List Move) (hin : s.input = .hostHalf :: rest) (hw : s.hostWrite = none) :
    step s = .next (takeMove rest s) := by
  rw [step_hostHalf s rest hin, finishHostWrite_none (takeMove rest s) hw]

/-- The moves of a SET_SLOT with nothing between them are the write in one piece, whether the schedule splits it or not
(20_memory.md R55). -/
theorem stepN_slotMoves (s : State) (split : Option Half) (i : Fin 10) (v : F32) (rest : List Move)
    (hwf : Memory.wf s.slots = true) (hw : s.hostWrite = none) (hin : s.input = slotMoves split i v ++ rest) :
    stepN (slotMoves split i v).length s = .next (writeWholeSlot i v (arrive split rest s)) := by
  cases split with
  | none =>
    have hevent := step_slotEvent s none i v rest hin hw
    rw [setSlot_whole i v _ (.inl rfl)] at hevent
    exact stepN_of_step 0 _ _ hevent
  | some h =>
    cases ht : s.params.tearBits with
    | b16 =>
      have hfirst := step_slotEvent_split s i v h (.hostHalf :: rest) hin hw ht
      have hsecond := step_hostHalf (writeFirstHalf i v h (arrive (some h) (.hostHalf :: rest) s)) rest rfl
      rw [← finishHostWrite_writeFirstHalf i v h (arrive (some h) rest s) hwf hw]
      exact (stepN_of_step 1 _ _ hfirst).trans (stepN_of_step 0 _ _ hsecond)
    | b32 =>
      have hevent := step_slotEvent s (some h) i v (.hostHalf :: rest) hin hw
      rw [setSlot_whole i v (arrive (some h) (.hostHalf :: rest) s) (.inr ht)] at hevent
      have hidle := step_hostHalf_idle (writeWholeSlot i v (arrive (some h) (.hostHalf :: rest) s)) rest rfl hw
      exact (stepN_of_step 1 _ _ hevent).trans (stepN_of_step 0 _ _ hidle)

/-! ### GET_STATUS -/

theorem decode_encode_statusEvent (k : Fin 4) : decode (encode (statusEvent k)) = .ok (statusEvent k) :=
  decodeOfEncodeIsTheEvent _ (by fin_cases k <;> rfl)

theorem statusEvent_port (k : Fin 4) : (statusEvent k).port = .host := by
  fin_cases k <;> rfl

theorem toNat_cursor_of_slot (i : Fin 10) : (BitVec.ofNat 4 i.val).toNat = i.val :=
  Nat.mod_eq_of_lt (by omega)

/-- GET_STATUS with the CURSOR that a write of slot `i` leaves. -/
theorem getStatus_of_cursor_eq (s : State) (i : Fin 10) (hc : s.cursor = BitVec.ofNat 4 i.val) :
    getStatus s = .next (answerStatus i s) := by
  have hval : s.cursor.toNat = i.val := by rw [hc, toNat_cursor_of_slot]
  rw [getStatus_of_lt s (by omega)]
  congr 2
  exact Fin.ext hval

/-- The step of a GET_STATUS that need not wait, with the CURSOR that a write of slot `i` leaves. -/
theorem step_statusEvent (s : State) (asked : Option Half) (k : Fin 4) (i : Fin 10) (rest : List Move)
    (hin : s.input = .event asked (encode (statusEvent k)) :: rest) (hw : s.hostWrite = none)
    (hc : s.cursor = BitVec.ofNat 4 i.val) : step s = .next (answerStatus i (arrive asked rest s)) := by
  rw [step_event s asked _ rest _ hin (decode_encode_statusEvent k) fun _ => hw, exec_statusEvent,
    getStatus_of_cursor_eq (arrive asked rest s) i hc]

/-- A split SET_SLOT and a GET_STATUS that arrives before the second half: two steps end in the write in one piece, with the
GET_STATUS still to come. -/
theorem stepN_split_then_statusEvent (s : State) (i : Fin 10) (v : F32) (h : Half) (asked : Option Half) (k : Fin 4)
    (rest : List Move) (hwf : Memory.wf s.slots = true) (hw : s.hostWrite = none) (ht : s.params.tearBits = .b16)
    (hin : s.input = .event (some h) (encode (slotEvent i v)) :: .event asked (encode (statusEvent k)) :: rest) :
    stepN 2 s =
      .next (writeWholeSlot i v (arrive (some h) (.event asked (encode (statusEvent k)) :: rest) s)) := by
  have hfirst := step_slotEvent_split s i v h _ hin hw ht
  have hwaits := step_event_waits (writeFirstHalf i v h (arrive (some h) _ s)) asked _ rest _ rfl
    (decode_encode_statusEvent k) (statusEvent_port k) rfl
  rw [← finishHostWrite_writeFirstHalf i v h (arrive (some h) _ s) hwf hw]
  exact (stepN_of_step 1 _ _ hfirst).trans (stepN_of_step 0 _ _ hwaits)

/-! ### The unknown host codes -/

theorem decode_of_encode_eq {i : Instr} {word : List Byte} (hwf : i.wellFormed = true) (h : encode i = word) :
    decode word = .ok i :=
  h ▸ decodeOfEncodeIsTheEvent i hwf

/-- The word of an unknown code with an operand, of either range (40_host_commands.md R106). -/
theorem decode_unknown_with_operand (code b3 b2 b1 b0 : Byte) (hlo : 0x0A ≤ code.toNat) (hhi : code.toNat ≤ 0x0F) :
    decode [code, b3, b2, b1, b0] = .ok (.unknown0A code (operandOf b3 b2 b1 b0)) ∨
      decode [code, b3, b2, b1, b0] = .ok (.unknown0C code (operandOf b3 b2 b1 b0)) := by
  by_cases h : code.toNat ≤ 0x0B
  · refine .inl (decode_of_encode_eq (decide_eq_true ⟨hlo, h⟩) ?_)
    simp [encode, Instr.code, Instr.operands, bytesOfOperand_operandOf]
  · refine .inr (decode_of_encode_eq (decide_eq_true ⟨by omega, hhi⟩) ?_)
    simp [encode, Instr.code, Instr.operands, bytesOfOperand_operandOf]

/-- The word of an unknown code without an operand, of either range (40_host_commands.md R106). -/
theorem decode_unknown_alone (code : Byte) (hlo : 0x14 ≤ code.toNat) (hhi : code.toNat ≤ 0x1F) :
    decode [code] = .ok (.unknown14 code) ∨ decode [code] = .ok (.unknown18 code) := by
  by_cases h : code.toNat ≤ 0x17
  · exact .inl (decode_of_encode_eq (decide_eq_true ⟨hlo, h⟩) rfl)
  · exact .inr (decode_of_encode_eq (decide_eq_true ⟨by omega, hhi⟩) rfl)

/-! ### The statements -/

/-- Settles O7: the step of a command that must wait is the half-write, which leaves the schedule as it is. -/
theorem aHostCommandWaitsForTheHalfWrite : Obligations.AHostCommandWaitsForTheHalfWrite := by
  intro s split word rest i w hin hd hp hw
  refine ⟨_, step_event_waits s split word rest i hin hd hp (by rw [hw]; rfl), ?_⟩
  rw [finishHostWrite_some (clearPort s) w hw]
  exact ⟨rfl, rfl, rfl, rfl, rfl, rfl, rfl, rfl, rfl⟩

/-- Settles O14: both writes end as the write in one piece, and such a write repeated is itself. -/
theorem repeatingASetSlotChangesNothing : Obligations.RepeatingASetSlotChangesNothing := by
  intro i v s hwf
  refine ⟨fun hwhole => ⟨writeWholeSlot i v s, ?_, ?_, writeWholeSlot_slot_same i v s hwf⟩, fun first second rest hw => ?_⟩
  · rw [exec_slotEvent, setSlot_whole i v s hwhole]
  · rw [exec_slotEvent, setSlot_whole i v (writeWholeSlot i v s) hwhole, writeWholeSlot_writeWholeSlot i v s hwf]
  · have hwf' := wf_writeSlot s.slots i v hwf
    exact ⟨_, _, stepN_slotMoves { s with input := _ } first i v _ hwf hw rfl,
      stepN_slotMoves (writeWholeSlot i v _) second i v rest hwf' hw rfl, writeWholeSlot_slot_same i v _ hwf,
      writeWholeSlot_slot_same i v _ hwf', writeSlot_writeSlot s.slots i v hwf, rfl⟩

/-- Settles O17: in each of the three cases GET_STATUS runs in the state that the write in one piece leaves, whose CURSOR names
the slot written. -/
theorem getStatusReadsBackTheLastWrite : Obligations.GetStatusReadsBackTheLastWrite := by
  intro i v k s hwf
  have hreads (t : State) (ht : t.slots = s.slots) : (writeWholeSlot i v t).slot i = v :=
    writeWholeSlot_slot_same i v t (ht ▸ hwf)
  refine ⟨fun hwhole => ?_, fun split asked rest hw => ?_, fun h asked rest hw ht => ?_⟩
  · refine ⟨writeWholeSlot i v s, answerStatus i (writeWholeSlot i v s), ?_, ?_, congrArg some (hreads s rfl), rfl, rfl⟩
    · rw [exec_slotEvent, setSlot_whole i v s hwhole]
    · rw [exec_statusEvent, getStatus_of_cursor_eq _ i rfl]
  · have hwrite := stepN_slotMoves { s with input := slotMoves split i v ++ .event asked (encode (statusEvent k)) :: rest }
      split i v _ hwf hw rfl
    exact ⟨_, _, hwrite, step_statusEvent _ asked k i rest rfl hw rfl, congrArg some (hreads _ rfl), rfl, rfl, rfl⟩
  · have hwrite := stepN_split_then_statusEvent
      { s with input := .event (some h) (encode (slotEvent i v)) :: .event asked (encode (statusEvent k)) :: rest }
      i v h asked k rest hwf hw ht rfl
    exact ⟨_, (stepN_add 2 1 _ _ hwrite).trans (stepN_of_step 0 _ _ (step_statusEvent _ asked k i rest rfl hw rfl)),
      congrArg some (hreads _ rfl), hreads _ rfl, rfl⟩

/-- Settles O18: the arms of the four unknown events leave the state, and the words of both ranges decode to such events. -/
theorem unknownHostCodesChangeNothing : Obligations.UnknownHostCodesChangeNothing := by
  refine ⟨fun code a s => ⟨rfl, rfl, rfl, rfl⟩, fun code b3 b2 b1 b0 hlo hhi => ?_, fun code hlo hhi => ?_⟩
  · rcases decode_unknown_with_operand code b3 b2 b1 b0 hlo hhi with h | h <;> exact ⟨_, h, fun _ => rfl⟩
  · rcases decode_unknown_alone code hlo hhi with h | h <;> exact ⟨_, h, fun _ => rfl⟩

/-- Settles O15: the four events run one operation, which answers the slot CURSOR names. -/
theorem getStatusAnswersTheCursorsSlot : Obligations.GetStatusAnswersTheCursorsSlot := by
  intro k s h
  rw [exec_statusEvent, getStatus_of_lt s h]
  rfl

end Sys2Proof.Machine
end

section
/-! Flipping the sign of a quotient, the roots of negative numbers and of zeros, and products with a zero
(41_kinematics.md R120, R122, R126; 00_scope.md R8). -/

namespace Sys2Proof.Machine

open Sys2Proof.Config

/-! ### A pattern by its sign and its magnitude -/

/-- A pattern is its sign and its magnitude. -/
theorem withSign_signOf_magnitudeOf (x : F32) : withSign (signOf x) (magnitudeOf x) = x := by
  have hlt := x.isLt
  apply BitVec.eq_of_toNat_eq
  rw [withSign_toNat _ _ (magnitudeOf_lt x), signOf, ← BitVec.testBit_toNat, Nat.testBit_eq_decide_div_mod_eq]
  simp only [magnitudeOf, decide_eq_true_eq]
  split <;> omega

theorem fneg_withSign (s : Bool) (mag : Nat) (h : mag < 2 ^ 31) : fneg (withSign s mag) = withSign (!s) mag := by
  rw [← withSign_signOf_magnitudeOf (fneg (withSign s mag)), signOf_fneg, magnitudeOf_fneg, signOf_withSign s mag h,
    magnitudeOf_withSign s mag h]

@[simp] theorem fneg_zeroOf (s : Bool) : fneg (zeroOf s) = zeroOf (!s) := fneg_withSign s 0 (by decide)

theorem fneg_roundF32 (fp : FpSubnormal) (s : Bool) (m : Nat) (e : Int) :
    fneg (roundF32 fp s m e) = roundF32 fp (!s) m e := by
  have hle := Nat.le_trans (flushResult_le fp (roundMagnitude m e)) (roundMagnitude_le m e)
  exact fneg_withSign s _ (by omega)

/-- The three classes of patterns. -/
theorem isNan_or_infOf_or_isFinite (x : F32) : isNan x = true ∨ (∃ s, x = infOf s) ∨ isFinite x = true := by
  rw [isNan_iff, isFinite_iff]
  rcases lt_trichotomy 0x7F800000 (magnitudeOf x) with hnan | hinf | hfin
  · exact .inl hnan
  · exact .inr (.inl ⟨signOf x, by rw [infOf, hinf, withSign_signOf_magnitudeOf]⟩)
  · exact .inr (.inr hfin)

/-! ### The quotient of a negated number -/

/-- Negating a finite number changes the sign that arithmetic reads, and nothing else. -/
theorem unpack_fneg_of_isFinite (fp : FpSubnormal) (x : F32) (h : isFinite x = true) :
    unpack fp (fneg x) = .fin (!signOf x) (significandOf fp x) (scaleOf x) := by
  rw [unpack_of_isFinite fp _ (by rwa [isFinite_fneg]), signOf_fneg]
  simp only [significandOf, scaleOf, exponentOf_eq, fractionOf_eq, magnitudeOf_fneg]

/-- Settles O29, by the classes of the operands: where the quotient is no NaN, the numerator's sign reaches nothing but the
quotient's sign. -/
theorem negatingAQuotientNegatesTheNumerator : Obligations.NegatingAQuotientNegatesTheNumerator := by
  intro fp a b hnum
  have hoperands : ¬ (isNan a = true ∨ isNan b = true) := fun h => by
    rw [fdiv_of_isNan fp a b h, isNan_producedNan] at hnum
    cases hnum
  obtain ⟨ha, hb⟩ := not_or.1 hoperands
  rcases (isNan_or_infOf_or_isFinite a).resolve_left ha with ⟨s, rfl⟩ | ha <;>
    rcases (isNan_or_infOf_or_isFinite b).resolve_left hb with ⟨t, rfl⟩ | hb
  · rw [fdiv_inf_inf (unpack_infOf fp s) (unpack_infOf fp t), isNan_producedNan] at hnum
    cases hnum
  · have hunpack := unpack_of_isFinite fp b hb
    rw [fneg_infOf, fdiv_inf_fin (unpack_infOf fp s) hunpack, fdiv_inf_fin (unpack_infOf fp !s) hunpack, fneg_infOf,
      Bool.not_xor]
  · rw [fdiv_fin_inf (unpack_of_isFinite fp a ha) (unpack_infOf fp t),
      fdiv_fin_inf (unpack_fneg_of_isFinite fp a ha) (unpack_infOf fp t), fneg_zeroOf, Bool.not_xor]
  · have hunpack := unpack_of_isFinite fp b hb
    rw [fdiv_fin_fin (unpack_of_isFinite fp a ha) hunpack] at hnum ⊢
    rw [fdiv_fin_fin (unpack_fneg_of_isFinite fp a ha) hunpack, Bool.not_xor]
    split
    · split
      next hn hm => simp [hn, hm] at hnum
      next => exact fneg_infOf _
    · exact fneg_roundF32 fp _ _ _

/-! ### Comparisons by their keys -/

theorem flt_iff (fp : FpSubnormal) (a b : F32) :
    flt fp a b = true ↔ isNan a = false ∧ isNan b = false ∧ compareKey fp a < compareKey fp b := by
  simp [flt, and_assoc]

/-- A pattern that is no subnormal is compared as the number it is, whether compares flush or not (42_dispatch.md R142). -/
theorem compareKey_of_not_subnormal (fp : FpSubnormal) (x : F32) (h : magnitudeOf x = 0 ∨ 0x00800000 ≤ magnitudeOf x) :
    compareKey fp x = signedInt (signOf x) (magnitudeOf x) := by
  rcases h with h | h
  · simp [compareKey, h]
  · simp [compareKey, isSubnormalOrZero, Nat.not_lt.2 h]

theorem compareKey_ieee (x : F32) : compareKey .ieee x = signedInt (signOf x) (magnitudeOf x) := rfl

/-- Below 0 under IEEE: the negative numbers and -infinity. -/
theorem flt_ieee_zero_iff (x : F32) :
    flt .ieee x zero = true ↔ isNan x = false ∧ signOf x = true ∧ magnitudeOf x ≠ 0 := by
  have hzero : compareKey .ieee zero = 0 := by decide
  have hnan : isNan zero = false := by decide
  rw [flt_iff, hzero, compareKey_ieee, hnan]
  cases signOf x with
  | false => simp [signedInt]
  | true =>
    simp only [signedInt, if_true, true_and]
    refine and_congr_right fun _ => ?_
    omega

/-! ### Roots -/

/-- Settles O28: a number below 0 is -infinity or a finite number with a sign and a significand. -/
theorem rootsOfNegativeNumbersAreNans : Obligations.RootsOfNegativeNumbersAreNans := by
  refine ⟨fun x hx => ?_, fun fp s => by rw [fsqrt_fin (unpack_zeroOf fp s), if_pos rfl]⟩
  obtain ⟨hnan, hsign, hmag⟩ := (flt_ieee_zero_iff x).1 hx
  rcases (isNan_or_infOf_or_isFinite x).resolve_left (by simp [hnan]) with ⟨s, rfl⟩ | hfin
  · obtain rfl : s = true := by rwa [infOf, signOf_withSign s _ (by decide)] at hsign
    exact (fsqrt_infOf .ieee).1
  · have hne := significandOf_ne_zero .ieee x (.inr ⟨rfl, hmag⟩)
    rw [fsqrt_fin (unpack_of_isFinite .ieee x hfin), if_neg hne, if_pos hsign, isQuietNan_producedNan]

/-! ### The matrix product of zeros -/

/-- A finite number times a zero is the zero of the product's sign. -/
theorem fmul_zeroOf (fp : FpSubnormal) (a : F32) (s : Bool) (h : isFinite a = true) :
    fmul fp a (zeroOf s) = zeroOf (signOf a ^^ s) := by
  rw [fmul_fin_fin (unpack_of_isFinite fp a h) (unpack_zeroOf fp s), Nat.mul_zero]
  simp [roundF32, roundMagnitude, flushResult, zeroOf]

/-- The sum of two zeros is negative only when both are. -/
theorem fadd_zeroOf (fp : FpSubnormal) (s t : Bool) : fadd fp (zeroOf s) (zeroOf t) = zeroOf (s && t) := by
  rw [fadd, addAs_fin_fin 0 (unpack_zeroOf fp s) (unpack_zeroOf fp t)]
  simp [addFinite, signedInt]

/-- Settles O30: each row is a sum of two zeros, whose signs are those of the row's entries against the speeds'. -/
theorem theMatrixMultiplyOfZeros : Obligations.TheMatrixMultiplyOfZeros := by
  intro fp inv h00 h01 h10 h11 s00 s01 s10 s11
  have hrows (s : Bool) :
      ikVw fp inv (zeroOf s) (zeroOf s) =
        ⟨zeroOf ((false ^^ s) && (true ^^ s)), zeroOf ((false ^^ s) && (false ^^ s))⟩ := by
    rw [ikVw, fmul_zeroOf fp _ s h00, fmul_zeroOf fp _ s h01, fmul_zeroOf fp _ s h10, fmul_zeroOf fp _ s h11,
      fadd_zeroOf, fadd_zeroOf, s00, s01, s10, s11]
  exact ⟨hrows false, hrows true⟩

end Sys2Proof.Machine
end

section
/-! The goal-pose kinematics (41_kinematics.md R124 to R130): the clamp, the two branches, and IK_GOAL on the two wheel
channels. -/

namespace Sys2Proof.Machine

open Sys2Proof.Config

/-! ### The clamp -/

/-- The keys of the two bounds, for every setting: neither is subnormal. -/
theorem compareKey_vMax (fp : FpSubnormal) :
    compareKey fp vMax = 0x3E19999A ∧ compareKey fp (fneg vMax) = -0x3E19999A := by
  rw [compareKey_of_not_subnormal fp _ (.inr (by decide)), compareKey_of_not_subnormal fp _ (.inr (by decide))]
  decide

theorem fgt_vMax_iff (fp : FpSubnormal) (x : F32) :
    fgt fp x vMax = true ↔ isNan x = false ∧ 0x3E19999A < compareKey fp x := by
  have hnan : isNan vMax = false := by decide
  rw [fgt, flt_iff, (compareKey_vMax fp).1]
  simp [hnan]

theorem flt_neg_vMax_iff (fp : FpSubnormal) (x : F32) :
    flt fp x (fneg vMax) = true ↔ isNan x = false ∧ compareKey fp x < -0x3E19999A := by
  have hnan : isNan (fneg vMax) = false := by decide
  rw [flt_iff, (compareKey_vMax fp).2]
  simp [hnan]

theorem clampSpeed_above (fp : FpSubnormal) (x : F32) (h : fgt fp x vMax = true) : clampSpeed fp x = vMax := if_pos h

theorem clampSpeed_below (fp : FpSubnormal) (x : F32) (h : flt fp x (fneg vMax) = true) :
    clampSpeed fp x = fneg vMax := by
  have habove : ¬ fgt fp x vMax = true := by
    rw [fgt_vMax_iff]
    obtain ⟨-, hkey⟩ := (flt_neg_vMax_iff fp x).1 h
    omega
  rw [clampSpeed, if_neg habove, if_pos h]

theorem clampSpeed_between (fp : FpSubnormal) (x : F32) (hle : fgt fp x vMax = false)
    (hge : flt fp x (fneg vMax) = false) : clampSpeed fp x = x := by
  simp [clampSpeed, hle, hge]

/-- No clamped speed is above VMAX or below -VMAX. -/
theorem clampSpeed_within (fp : FpSubnormal) (x : F32) :
    fgt fp (clampSpeed fp x) vMax = false ∧ flt fp (clampSpeed fp x) (fneg vMax) = false := by
  obtain ⟨hmax, hmin⟩ := compareKey_vMax fp
  cases habove : fgt fp x vMax with
  | true =>
    rw [clampSpeed_above fp x habove, ← Bool.not_eq_true, ← Bool.not_eq_true, fgt_vMax_iff, flt_neg_vMax_iff, hmax]
    omega
  | false =>
    cases hbelow : flt fp x (fneg vMax) with
    | true =>
      rw [clampSpeed_below fp x hbelow, ← Bool.not_eq_true, ← Bool.not_eq_true, fgt_vMax_iff, flt_neg_vMax_iff, hmin]
      omega
    | false =>
      rw [clampSpeed_between fp x habove hbelow]
      exact ⟨habove, hbelow⟩

theorem clampSpeed_of_isNan (fp : FpSubnormal) (x : F32) (h : isNan x = true) : clampSpeed fp x = x :=
  clampSpeed_between fp x (flt_nan_right fp vMax x h) (flt_nan_left fp x _ h)

/-- The setting of FP_SUBNORMAL has no part in clamping a pattern that is no subnormal. -/
theorem clampSpeed_of_not_subnormal (fp : FpSubnormal) (x : F32)
    (h : magnitudeOf x = 0 ∨ 0x00800000 ≤ magnitudeOf x) : clampSpeed fp x = clampSpeed .ieee x := by
  have hkey : compareKey fp x = compareKey .ieee x := compareKey_of_not_subnormal fp x h
  have habove : fgt fp x vMax = fgt .ieee x vMax := by
    rw [Bool.eq_iff_iff, fgt_vMax_iff, fgt_vMax_iff, hkey]
  have hbelow : flt fp x (fneg vMax) = flt .ieee x (fneg vMax) := by
    rw [Bool.eq_iff_iff, flt_neg_vMax_iff, flt_neg_vMax_iff, hkey]
  rw [clampSpeed, clampSpeed, habove, hbelow]

/-- Settles O31: the two comparisons exclude each other, and of the corners none is a subnormal. -/
theorem theClampKeepsSpeedsWithinVmax : Obligations.TheClampKeepsSpeedsWithinVmax := by
  refine ⟨fun fp x => ?_, fun fp => ?_, fun _ _ _ _ => rfl⟩
  · obtain ⟨hle, hge⟩ := clampSpeed_within fp x
    exact ⟨clampSpeed_above fp x, clampSpeed_below fp x, clampSpeed_between fp x, hle, hge,
      clampSpeed_of_isNan fp x⟩
  · iterate 6 rw [clampSpeed_of_not_subnormal fp _ (by decide)]
    decide

/-! ### IK_GOAL -/

/-- The mapper's write leaves in its channel the count of a percent in range (43_pwm.md R180). -/
theorem holdsCountOf_driveChannel (c : Channel) (p : F32) (s : State) :
    holdsCountOf s.params.fp p ((driveChannel c p s).cmp c) :=
  cmp_driveChannel_in c p s

section
variable (g : GoalSeekFunctions) (start goal : Pose) (w : Wheels) (s : State)

/-- GS_OUT gives each wheel's channel its own duty: the right wheel's write, which comes second, leaves the left wheel's
(41_kinematics.md R129). -/
theorem holdsCountOf_goalOut :
    holdsCountOf s.params.fp (dutyOf s.params w.wl) ((goalOut w s).cmp .leftWheel) ∧
      holdsCountOf s.params.fp (dutyOf s.params w.wr) ((goalOut w s).cmp .rightWheel) := by
  constructor
  · rw [goalOut, cmp_driveChannel_other .rightWheel .leftWheel _ _ (by decide)]
    exact holdsCountOf_driveChannel .leftWheel _ s
  · have hright := holdsCountOf_driveChannel .rightWheel (dutyOf s.params w.wr)
      (driveChannel .leftWheel (dutyOf s.params w.wl) s)
    rwa [driveChannel_params] at hright

/-- GS_OUT counts each duty out of range (43_pwm.md R181). -/
theorem goalOut_diagDutyOor :
    (goalOut w s).diagDutyOor =
      s.diagDutyOor + dutyCount s.params.fp (dutyOf s.params w.wl) + dutyCount s.params.fp (dutyOf s.params w.wr) := by
  rw [goalOut, driveChannel_diagDutyOor, driveChannel_diagDutyOor, driveChannel_params]
  rfl

/-- What GS_OUT leaves as it is: everything but the two wheel channels, the counter and the count of draws. -/
theorem goalOut_frame :
    goalOut w s =
      { s with cmp1 := (goalOut w s).cmp1, cmp2 := (goalOut w s).cmp2, diagDutyOor := (goalOut w s).diagDutyOor
               draws := (goalOut w s).draws } := by
  have hgrip (c : Channel) (hr : c ≠ .rightWheel) (hl : c ≠ .leftWheel) : (goalOut w s).cmp c = s.cmp c := by
    rw [goalOut, cmp_driveChannel_other _ c _ _ hr, cmp_driveChannel_other _ c _ _ hl]
  have hforward : (goalOut w s).cmp3 = s.cmp3 := hgrip .gripForward nofun nofun
  have hbackward : (goalOut w s).cmp4 = s.cmp4 := hgrip .gripBackward nofun nofun
  refine (driveChannel_frame .rightWheel _ _).trans ?_
  rw [← hforward, ← hbackward]
  simp [goalOut]

/-- The record of IK_GOAL: the branch and the clamped velocities (41_kinematics.md R130). -/
theorem ikGoalWith_trace :
    (ikGoalWith g start goal s).trace =
      s.trace ++ [.ik (goalBranch s.params.fp start.th goal.th) (goalSeek g s.params.fp start goal).wl
        (goalSeek g s.params.fp start goal).wr] := by
  simp [ikGoalWith, goalOut]

/-- IK_GOAL leaves what GS_OUT leaves, and adds its record to the trace (41_kinematics.md R130). -/
theorem ikGoalWith_frame :
    ikGoalWith g start goal s =
      { s with cmp1 := (ikGoalWith g start goal s).cmp1, cmp2 := (ikGoalWith g start goal s).cmp2
               diagDutyOor := (ikGoalWith g start goal s).diagDutyOor, draws := (ikGoalWith g start goal s).draws
               trace := (ikGoalWith g start goal s).trace } := by
  rw [ikGoalWith_trace]
  exact congrArg (emit _) (goalOut_frame (goalSeek g s.params.fp start goal) s)

end

/-- Settles O32: the two wheel channels hold what GS_OUT writes them, and the record is all that follows. -/
theorem ikGoalDrivesTheTwoWheels : Obligations.IkGoalDrivesTheTwoWheels := by
  intro xs ys ths xg yg thg s
  obtain ⟨hleft, hright⟩ := holdsCountOf_goalOut (goalSeek goalSeekFunctions s.params.fp ⟨xs, ys, ths⟩ ⟨xg, yg, thg⟩) s
  refine ⟨ikGoalWith goalSeekFunctions ⟨xs, ys, ths⟩ ⟨xg, yg, thg⟩ s, rfl,
    ⟨hleft, hright, goalOut_diagDutyOor _ s, ikGoalWith_trace _ _ _ s⟩, fun a => ?_, ?_⟩
  · rw [ikGoalWith_slots]
  · exact ikGoalWith_frame _ _ _ s

/-! ### The branches -/

theorem goalBranch_straight (fp : FpSubnormal) (ths thg : F32)
    (h : flt fp (fabs (fsub fp thg ths)) 0x3B03126F#32 = true) : goalBranch fp ths thg = .straight := by
  rw [goalBranch, eps, if_pos h]

theorem goalBranch_arc (fp : FpSubnormal) (ths thg : F32)
    (h : flt fp (fabs (fsub fp thg ths)) 0x3B03126F#32 = false) : goalBranch fp ths thg = .arc := by
  rw [goalBranch, eps, if_neg (Bool.eq_false_iff.1 h)]

/-- Headings less than EPS apart: both wheels at the speed for the distance, as the source computes it (R125, R126). -/
theorem goalSeek_straight (g : GoalSeekFunctions) (fp : FpSubnormal) (start goal : Pose)
    (h : goalBranch fp start.th goal.th = .straight) :
    goalSeek g fp start goal =
      ⟨clampSpeed fp (g.straightSpeed (chordDistance fp start.x start.y goal.x goal.y)),
        clampSpeed fp (g.straightSpeed (chordDistance fp start.x start.y goal.x goal.y))⟩ := by
  simp [goalSeek, goalWheels, h]

/-- All other headings: the two velocities of the arc (R128). -/
theorem goalSeek_arc (g : GoalSeekFunctions) (fp : FpSubnormal) (start goal : Pose)
    (h : goalBranch fp start.th goal.th = .arc) :
    goalSeek g fp start goal =
      ⟨clampSpeed fp (g.arc start.x start.y start.th goal.x goal.y goal.th).1,
        clampSpeed fp (g.arc start.x start.y start.th goal.x goal.y goal.th).2⟩ := by
  simp [goalSeek, goalWheels, h]

/-- Settles O33: the comparison with EPS picks the branch, and the record shows that branch's clamped velocities. -/
theorem ikGoalKeepsTheDistanceDefect : Obligations.IkGoalKeepsTheDistanceDefect := by
  intro xs ys ths xg yg thg s
  refine ⟨ikGoalWith goalSeekFunctions ⟨xs, ys, ths⟩ ⟨xg, yg, thg⟩ s, rfl, fun hlt => ?_, fun hge => ?_⟩
  · have hbranch := goalBranch_straight s.params.fp ths thg hlt
    rw [ikGoalWith_trace, goalSeek_straight _ _ ⟨xs, ys, ths⟩ ⟨xg, yg, thg⟩ hbranch, hbranch]
    rfl
  · have hbranch := goalBranch_arc s.params.fp ths thg hge
    rw [ikGoalWith_trace, goalSeek_arc _ _ ⟨xs, ys, ths⟩ ⟨xg, yg, thg⟩ hbranch, hbranch]

end Sys2Proof.Machine
end

section
/-! The state after reset (10_state.md section 1). -/

namespace Sys2Proof.Machine

/-- A slot that nothing has written is +0.0 (10_state.md R23). -/
theorem readSlot_nil (i : Fin 10) : Memory.readSlot [] i = 0x00000000#32 := by
  simp [Memory.readSlot, Memory.readHalf, Memory.readByte, Memory.unlisted, joinHalves]

/-- Settles O52, field by field: `State.reset` lists these values, and the matrix is R120's evaluation in the
parameters. -/
theorem theResetStateHasTheGivenValues : Obligations.TheResetStateHasTheGivenValues :=
  ⟨readSlot_nil, rfl, fun c => by cases c <;> rfl, rfl, rfl, rfl, rfl, rfl, rfl⟩

end Sys2Proof.Machine
end

section
/-! Comparisons by the operands' bits, and what dispatch makes of them: the selected mode, the heading regulator, the
rotation of TrajectoryFollow and the gripper service (42_dispatch.md R141 to R147, R160). -/

namespace Sys2Proof.Machine

open Sys2Proof.Config

/-! ### Patterns as numbers -/

theorem signOf_iff (x : F32) : signOf x = true ↔ 2 ^ 31 ≤ x.toNat := by
  have hlt := x.isLt
  rw [signOf, ← BitVec.testBit_toNat, Nat.testBit_eq_decide_div_mod_eq, decide_eq_true_eq]
  omega

/-- What IEEE comparison orders a pattern by, on the pattern as a number: the upper half runs downwards from 0. -/
theorem compareKey_ieee_toNat (x : F32) :
    compareKey .ieee x =
      if 2 ^ 31 ≤ x.toNat then -((x.toNat % 2 ^ 31 : Nat) : Int) else ((x.toNat % 2 ^ 31 : Nat) : Int) := by
  simp only [compareKey_ieee, signedInt, signOf_iff]
  rfl

theorem isNan_eq_false_iff (x : F32) : isNan x = false ↔ x.toNat % 2 ^ 31 ≤ 0x7F800000 := by
  rw [← Bool.not_eq_true, isNan_iff, not_lt, magnitudeOf]

/-! ### IEEE comparison with a number that has no sign -/

/-- Two numbers without a sign compare as their patterns do. -/
theorem flt_ieee_iff_toNat (a b : F32) (ha : a.toNat ≤ 0x7F800000) (hb : b.toNat ≤ 0x7F800000) :
    flt .ieee a b = true ↔ a.toNat < b.toNat := by
  rw [flt_iff, isNan_eq_false_iff, isNan_eq_false_iff, compareKey_ieee_toNat, compareKey_ieee_toNat]
  omega

/-- Above a number without a sign: the patterns from there up to +infinity. -/
theorem fgt_ieee_iff (x b : F32) (hb : b.toNat ≤ 0x7F800000) :
    fgt .ieee x b = true ↔ b.toNat < x.toNat ∧ x.toNat ≤ 0x7F800000 := by
  have hlt := x.isLt
  rw [fgt, flt_iff, isNan_eq_false_iff, isNan_eq_false_iff, compareKey_ieee_toNat, compareKey_ieee_toNat]
  omega

/-- Below a number with a sign, a zero among them: the patterns from there up to -infinity. -/
theorem flt_ieee_iff_of_signed (x b : F32) (hb : 0x80000000 ≤ b.toNat) (hle : b.toNat ≤ 0xFF800000) :
    flt .ieee x b = true ↔ b.toNat < x.toNat ∧ x.toNat ≤ 0xFF800000 := by
  have hlt := x.isLt
  rw [flt_iff, isNan_eq_false_iff, isNan_eq_false_iff, compareKey_ieee_toNat, compareKey_ieee_toNat]
  omega

/-- Equal to a number above 0: the very same pattern. -/
theorem feq_ieee_iff (x b : F32) (hpos : 0 < b.toNat) (hb : b.toNat ≤ 0x7F800000) :
    feq .ieee x b = true ↔ x.toNat = b.toNat := by
  have hlt := x.isLt
  simp only [feq, Bool.and_eq_true, Bool.not_eq_true', decide_eq_true_eq, isNan_eq_false_iff, compareKey_ieee_toNat]
  omega

/-! ### Comparison with 0, for every FP_SUBNORMAL -/

@[simp] theorem compareKey_zero (fp : FpSubnormal) : compareKey fp zero = 0 :=
  compareKey_of_not_subnormal fp zero (.inl (by decide))

@[simp] theorem isNan_zero : isNan zero = false := by decide

/-- A pattern is compared as 0 when it is a zero, or a subnormal that the comparison flushes (42_dispatch.md R142). -/
theorem compareKey_eq_zero_iff (fp : FpSubnormal) (x : F32) :
    compareKey fp x = 0 ↔ magnitudeOf x = 0 ∨ (flushesCompares fp = true ∧ magnitudeOf x < 2 ^ 23) := by
  have hsigned (s : Bool) (m : Nat) : signedInt s m = 0 ↔ m = 0 := by cases s <;> simp [signedInt]
  rw [compareKey, hsigned]
  cases flushesCompares fp <;> simp [isSubnormalOrZero]
  omega

theorem feq_zero_iff (fp : FpSubnormal) (x : F32) :
    feq fp x zero = true ↔ magnitudeOf x = 0 ∨ (flushesCompares fp = true ∧ magnitudeOf x < 2 ^ 23) := by
  have hnan (h : magnitudeOf x < 2 ^ 23) : isNan x = false := (isNan_eq_false_iff x).2 (by
    rw [magnitudeOf] at h
    omega)
  simp only [feq, Bool.and_eq_true, Bool.not_eq_true', decide_eq_true_eq, compareKey_zero, compareKey_eq_zero_iff,
    isNan_zero, and_true]
  exact and_iff_right_of_imp fun h => h.elim (fun hzero => hnan (by omega)) fun hflush => hnan hflush.2

theorem feq_ieee_zero_iff (x : F32) : feq .ieee x zero = true ↔ x.toNat % 2 ^ 31 = 0 := by
  simp [feq_zero_iff, flushesCompares, magnitudeOf]

theorem fgt_zero_iff (fp : FpSubnormal) (x : F32) :
    fgt fp x zero = true ↔ isNan x = false ∧ 0 < compareKey fp x := by
  simp [fgt, flt_iff]

/-- Neither a NaN nor a pattern with a sign is above 0. -/
theorem fgt_zero_of_isNan_or_signOf (fp : FpSubnormal) (x : F32) (h : isNan x = true ∨ signOf x = true) :
    fgt fp x zero = false := by
  rw [Bool.eq_false_iff, Ne, fgt_zero_iff]
  rintro ⟨hnan, hpos⟩
  have hsign : signOf x = true := h.resolve_left (by simp [hnan])
  simp only [compareKey, signedInt, hsign, if_true] at hpos
  omega

/-! ### The selected mode -/

theorem selectMode_trajectoryFollow_iff (fp : FpSubnormal) (te gx : F32) :
    selectMode fp te gx = .trajectoryFollow ↔ fgt fp te zero = true := by
  unfold selectMode
  split
  · simp [*]
  · split <;> simp [*]

theorem selectMode_goalSeek_iff (fp : FpSubnormal) (te gx : F32) :
    selectMode fp te gx = .goalSeek ↔ ¬ fgt fp te zero = true ∧ ¬ feq fp gx zero = true := by
  unfold selectMode fne
  split
  · simp [*]
  · cases feq fp gx zero <;> simp [*]

theorem selectMode_directSpeed_iff (fp : FpSubnormal) (te gx : F32) :
    selectMode fp te gx = .directSpeed ↔ ¬ fgt fp te zero = true ∧ feq fp gx zero = true := by
  unfold selectMode fne
  split
  · simp [*]
  · cases feq fp gx zero <;> simp [*]

/-- Settles O34: the two tests of SELECT by the operands' patterns. -/
theorem modeSelectionByPattern : Obligations.ModeSelectionByPattern := by
  intro te gx
  rw [selectMode_trajectoryFollow_iff, selectMode_goalSeek_iff, selectMode_directSpeed_iff,
    fgt_ieee_iff te zero (by decide), feq_ieee_zero_iff]
  exact ⟨Iff.rfl, Iff.rfl, Iff.rfl⟩

/-- Settles O35: no corner of the tracking error but +infinity is above 0, and a goal X is equal to 0 exactly when it is a
zero or a flushed subnormal. -/
theorem modeSelectionAtItsCorners : Obligations.ModeSelectionAtItsCorners := by
  intro fp te gx
  refine ⟨fun h => ?_, ?_, fun hte => ?_⟩
  · rw [selectMode, fgt_zero_of_isNan_or_signOf fp te h, if_neg Bool.false_ne_true]
  · rw [selectMode_trajectoryFollow_iff, fgt_zero_iff, compareKey_of_not_subnormal fp _ (.inr (by decide))]
    decide
  · have hte : ¬ fgt fp te zero = true := Bool.eq_false_iff.1 hte
    have hgoal : ¬ feq fp gx zero = true → selectMode fp te gx = .goalSeek := fun h =>
      (selectMode_goalSeek_iff fp te gx).2 ⟨hte, h⟩
    have hdirect (x : F32) : feq fp x zero = true → selectMode fp te x = .directSpeed := fun h =>
      (selectMode_directSpeed_iff fp te x).2 ⟨hte, h⟩
    refine ⟨hdirect _ ((feq_zero_iff fp _).2 (.inl (by decide))), fun hnan => hgoal ?_,
      fun hpos hsub => ⟨fun hkeep => hgoal ?_, fun hflush => hdirect _ ?_⟩, rfl⟩
    · rw [feq_nan_left fp gx zero hnan]
      exact Bool.false_ne_true
    · simpa [feq_zero_iff, hkeep, magnitudeOf] using hpos.ne'
    · exact (feq_zero_iff fp gx).2 (.inr ⟨hflush, hsub⟩)

/-! ### The heading regulator, the rotation and the gripper -/

/-- The regulator's tests, in the source's order, by the operand's pattern (42_dispatch.md R145). -/
theorem headingRegulator_ieee (p : Params) (e : F32) (hfp : p.fp = .ieee) :
    headingRegulator p e =
      if 0x3FC8F5C3 < e.toNat ∧ e.toNat ≤ 0x7F800000 then regulatorPiece p p.tfA1 p.tfB1 e
      else if 0 < e.toNat ∧ e.toNat ≤ 0x7F800000 then regulatorPiece p p.tfA2 p.tfB2 e
      else if 0xBFC8F5C3 < e.toNat ∧ e.toNat ≤ 0xFF800000 then regulatorPiece p p.tfA3 p.tfB3 e
      else if 0x80000000 < e.toNat ∧ e.toNat ≤ 0xFF800000 then regulatorPiece p p.tfA4 p.tfB4 e
      else zero := by
  have hminus : flt .ieee e zero = flt .ieee e 0x80000000#32 := by
    rw [flt, flt, compareKey_zero]
    rfl
  simp only [headingRegulator, hfp, hminus, fgt_ieee_iff e heBrk (by decide), fgt_ieee_iff e zero (by decide),
    flt_ieee_iff_of_signed e (fneg heBrk) (by decide) (by decide),
    flt_ieee_iff_of_signed e 0x80000000#32 (by decide) (by decide)]
  rfl

/-- Settles O36: each range of patterns fails the tests before its own. -/
theorem headingRegulatorBranchesByPattern : Obligations.HeadingRegulatorBranchesByPattern := by
  intro p e hfp piece
  have hpiece (slope intercept : F32) : regulatorPiece p slope intercept e = piece slope intercept := by
    rw [regulatorPiece, hfp]
  rw [headingRegulator_ieee p e hfp]
  simp only [hpiece]
  refine ⟨fun h => if_pos h, fun h => ?_, fun h => ?_, fun h => ?_, fun h => ?_⟩
  · rw [if_neg (by omega), if_pos (by omega)]
  · rw [if_neg (by omega), if_neg (by omega), if_pos h]
  · rw [if_neg (by omega), if_neg (by omega), if_neg (by omega), if_pos (by omega)]
  · have hlt := e.isLt
    rw [isNan_iff, magnitudeOf] at h
    rw [if_neg (by omega), if_neg (by omega), if_neg (by omega), if_neg (by omega), zero]

/-- Settles O37: of two numbers without a sign the smaller pattern is the smaller number, so the rotation starts at 50. -/
theorem trajectoryFollowTurnsFromFiftyOn : Obligations.TrajectoryFollowTurnsFromFiftyOn := by
  intro p inv te e hfp _ hle w wl wr
  have hw : trackingRotation p te e = w := by
    simp only [trackingRotation, hfp, flt_ieee_iff_toNat te teThresh hle (by decide)]
    rfl
  simp only [trajectoryFollow, hw, ikVw, Wheels.toDrive, dutyOf, hfp]
  rfl

/-- Settles O38: equal to 0 are the two zeros, equal to 1 is one pattern. -/
theorem gripperServiceByPattern : Obligations.GripperServiceByPattern := by
  intro p m hfp
  have hone : feq .ieee m one = true ↔ m.toNat = 0x3F800000 := feq_ieee_iff m one (by decide) (by decide)
  simp only [gripDuties, hfp, feq_ieee_zero_iff, hone]
  refine ⟨fun h => if_pos h, fun h => ?_, fun hzero hone => ?_⟩
  · rw [if_neg (by omega), if_pos h, zero]
  · rw [if_neg hzero, if_neg hone, zero]

end Sys2Proof.Machine
end

section
/-! The compute step (42_dispatch.md R140): what it drives, records and counts, each mode's path written out (R144 to
R155), and which halves of the snapshot the drive logic and the gripper read (R161). -/

namespace Sys2Proof.Machine

open Sys2Proof.Config

/-! ### The four channels -/

section
variable (d : Drive) (q : GripDuties) (s : State)

/-- Each channel holds its own duty: the writes that follow are to other channels. -/
theorem holdsCountOf_driveAll :
    holdsCountOf s.params.fp d.dr (driveAll d q s).cmp1 ∧ holdsCountOf s.params.fp d.dl (driveAll d q s).cmp2 ∧
      holdsCountOf s.params.fp q.d3 (driveAll d q s).cmp3 ∧ holdsCountOf s.params.fp q.d4 (driveAll d q s).cmp4 := by
  have hright := holdsCountOf_driveChannel .rightWheel d.dr s
  have hleft := holdsCountOf_driveChannel .leftWheel d.dl (driveChannel .rightWheel d.dr s)
  have hforward := holdsCountOf_driveChannel .gripForward q.d3
    (driveChannel .leftWheel d.dl (driveChannel .rightWheel d.dr s))
  have hbackward := holdsCountOf_driveChannel .gripBackward q.d4
    (driveChannel .gripForward q.d3 (driveChannel .leftWheel d.dl (driveChannel .rightWheel d.dr s)))
  simp only [driveChannel_params] at hleft hforward hbackward
  refine ⟨?_, ?_, ?_, hbackward⟩
  · rwa [← cmp_driveChannel_other .leftWheel .rightWheel d.dl _ nofun,
      ← cmp_driveChannel_other .gripForward .rightWheel q.d3 _ nofun,
      ← cmp_driveChannel_other .gripBackward .rightWheel q.d4 _ nofun] at hright
  · rwa [← cmp_driveChannel_other .gripForward .leftWheel q.d3 _ nofun,
      ← cmp_driveChannel_other .gripBackward .leftWheel q.d4 _ nofun] at hleft
  · rwa [← cmp_driveChannel_other .gripBackward .gripForward q.d4 _ nofun] at hforward

theorem driveAll_diagDutyOor :
    (driveAll d q s).diagDutyOor =
      s.diagDutyOor + dutyCount s.params.fp d.dr + dutyCount s.params.fp d.dl + dutyCount s.params.fp q.d3 +
        dutyCount s.params.fp q.d4 := by
  simp only [driveAll, driveChannel_diagDutyOor, driveChannel_params, dutyCount]

end

/-! ### The step -/

/-- `t` is `s` once a compute step has handed on the mode `m`, the drive values `d` and the gripper duties `q`: what the
mapper, the counter of duties out of range and the trace then hold (42_dispatch.md R140). -/
structure Computed (m : Mode) (d : Drive) (q : GripDuties) (s t : State) : Prop where
  right : holdsCountOf s.params.fp d.dr t.cmp1
  left : holdsCountOf s.params.fp d.dl t.cmp2
  forward : holdsCountOf s.params.fp q.d3 t.cmp3
  backward : holdsCountOf s.params.fp q.d4 t.cmp4
  counted : t.diagDutyOor = s.diagDutyOor + dutyCount s.params.fp d.dr + dutyCount s.params.fp d.dl +
    dutyCount s.params.fp q.d3 + dutyCount s.params.fp q.d4
  record : t.trace = s.trace ++ [.tick m d.wl d.wr d.dl d.dr q.d3 q.d4]

theorem computed_compute (s : State) : Computed s.mode (s.drive goalSeekFunctions) s.grip s (compute s) := by
  obtain ⟨hright, hleft, hforward, hbackward⟩ := holdsCountOf_driveAll (s.drive goalSeekFunctions) s.grip s
  have hcounted := driveAll_diagDutyOor (s.drive goalSeekFunctions) s.grip s
  exact ⟨by simpa [compute, computeWith] using hright, by simpa [compute, computeWith] using hleft,
    by simpa [compute, computeWith] using hforward, by simpa [compute, computeWith] using hbackward,
    by simpa [compute, computeWith] using hcounted, by simp [compute, computeWith, driveAll, tickRecord]⟩

theorem compute_tickPhase (s : State) : (compute s).tickPhase = if s.tickPending then .sampling else .idle := by
  simp [compute, computeWith, driveAll]

theorem compute_snapDone_eq (s : State) : (compute s).snapDone = if s.tickPending then 0#26 else s.snapDone := by
  simp [compute, computeWith, driveAll]

theorem leaveTick_frame (s : State) :
    leaveTick s =
      { s with tickPhase := (leaveTick s).tickPhase, tickPending := (leaveTick s).tickPending
               snapDone := (leaveTick s).snapDone } := by
  unfold leaveTick
  split <;> rfl

/-- What a compute step leaves as it is: all but compare registers, counters, draws, trace and the state of the tick. -/
theorem compute_frame (s : State) :
    compute s =
      { s with cmp1 := (compute s).cmp1, cmp2 := (compute s).cmp2, cmp3 := (compute s).cmp3, cmp4 := (compute s).cmp4
               diagDutyOor := (compute s).diagDutyOor, draws := (compute s).draws, trace := (compute s).trace
               diagTicksSinceWrite := (compute s).diagTicksSinceWrite, tickPhase := (compute s).tickPhase
               tickPending := (compute s).tickPending, snapDone := (compute s).snapDone } := by
  refine (leaveTick_frame _).trans ?_
  simp [compute, computeWith, driveAll]

/-- The compute step that the schedule picks and that is enabled. -/
theorem step_compute (s : State) (rest : List Move) (hin : s.input = .compute :: rest) (hp : s.tickPhase = .sampling)
    (hd : s.snapDone = BitVec.allOnes 26) : step s = .next (compute (takeMove rest s)) := by
  rw [step_agentMove s .compute rest hin nofun, agentMove, tryCompute_enabled (takeMove rest s) hp hd]

/-- Taking the move off the schedule has no part in what the compute step hands on. -/
theorem computed_takeMove (s : State) (rest : List Move) :
    Computed s.mode (s.drive goalSeekFunctions) s.grip s (compute (takeMove rest s)) :=
  have h := computed_compute (takeMove rest s)
  ⟨h.right, h.left, h.forward, h.backward, h.counted, h.record⟩

/-! ### The paths of the three modes -/

section
variable (g : GoalSeekFunctions) (s : State)

theorem drive_of_trajectoryFollow (h : s.mode = .trajectoryFollow) :
    s.drive g = trajectoryFollow s.params s.inv (s.snapSlot slotTe) (s.snapSlot slotHe) := by
  rw [State.drive, h]

theorem drive_of_goalSeek (h : s.mode = .goalSeek) :
    s.drive g = goalSeekDrive g s.params s.snapPose ⟨s.snapSlot slotGx, s.snapSlot slotGy, s.snapSlot slotGth⟩ := by
  rw [State.drive, h]

theorem drive_of_directSpeed (h : s.mode = .directSpeed) :
    s.drive g =
      directSpeed s.params s.inv (s.snapSlot slotV) (s.snapSlot slotW) (s.snapSlot slotL) (s.snapSlot slotR) := by
  rw [State.drive, h]

end

section
variable (p : Params) (inv : InvMatrix) (v w : F32) {l r : F32}

theorem directSpeed_left (hl : fgt p.fp l zero = true) : directSpeed p inv v w l r = turnLeft l := by
  rw [directSpeed, if_pos hl]

theorem directSpeed_right (hl : fgt p.fp l zero = false) (hr : fgt p.fp r zero = true) :
    directSpeed p inv v w l r = turnRight r := by
  rw [directSpeed, if_neg (Bool.eq_false_iff.1 hl), if_pos hr]

theorem directSpeed_straight (hl : fgt p.fp l zero = false) (hr : fgt p.fp r zero = false) :
    directSpeed p inv v w l r = matrixDrive p inv v w := by
  rw [directSpeed, if_neg (Bool.eq_false_iff.1 hl), if_neg (Bool.eq_false_iff.1 hr)]

end

/-- The two branches of the goal-pose kinematics as one choice between the wheel values, then clamped (41_kinematics.md R124,
R125, R127). -/
theorem goalSeek_eq (g : GoalSeekFunctions) (fp : FpSubnormal) (start goal : Pose) :
    let straight := flt fp (fabs (fsub fp goal.th start.th)) eps
    let speed := g.straightSpeed (chordDistance fp start.x start.y goal.x goal.y)
    let arc := g.arc start.x start.y start.th goal.x goal.y goal.th
    goalSeek g fp start goal =
      ⟨clampSpeed fp (if straight then speed else arc.1), clampSpeed fp (if straight then speed else arc.2)⟩ := by
  intro straight speed arc
  cases h : straight with
  | true => exact goalSeek_straight g fp start goal (goalBranch_straight fp _ _ h)
  | false => exact goalSeek_arc g fp start goal (goalBranch_arc fp _ _ h)

/-- Settles O39: the drive values are those of the mode's own path, and the rest of the step does not depend on the mode. -/
theorem theComputeStepDrivesAllFourChannels : Obligations.TheComputeStepDrivesAllFourChannels := by
  intro s rest hin hp hd
  have h := computed_takeMove s rest
  refine ⟨_, step_compute s rest hin hp hd, ?_, ?_, compute_tickPhase _, compute_tickPending _, compute_snapDone_eq _,
    fun a => ?_, compute_frame _⟩
  · intro p m fp duty matrix d q
    have hdrive : s.drive goalSeekFunctions = d := by
      cases hm : s.mode with
      | trajectoryFollow =>
        have hsel : m = .trajectoryFollow := hm
        rw [drive_of_trajectoryFollow _ s hm]
        simp only [d, hsel]
        rfl
      | goalSeek =>
        have hsel : m = .goalSeek := hm
        rw [drive_of_goalSeek _ s hm, goalSeekDrive, goalSeek_eq]
        simp only [d, hsel]
        rfl
      | directSpeed =>
        have hsel : m = .directSpeed := hm
        rw [drive_of_directSpeed _ s hm]
        simp only [d, hsel]
        rfl
    rw [hdrive] at h
    exact ⟨h.right, h.left, h.forward, h.backward, h.counted, h.record⟩
  · rw [compute_diagTicksSinceWrite]
    exact countTick_saturates _
  · rw [compute_slots]
    rfl

/-! ### DirectSpeed -/

/-- 100 percent is in range, and its count is the whole period, for every FP_SUBNORMAL (43_pwm.md R180). -/
theorem compareOf_hundred (fp : FpSubnormal) :
    dutyOutOfRange fp hundred = false ∧ compareOf fp hundred = 30000#16 := by
  cases fp with
  | ieee => decide
  | ftz operands compares => cases operands <;> cases compares <;> decide

theorem dutyCount_hundred (fp : FpSubnormal) : dutyCount fp hundred = 0#32 := by
  simp [dutyCount, compareOf_hundred]

theorem eq_of_holdsCountOf_hundred {fp : FpSubnormal} {n : U16} (h : holdsCountOf fp hundred n) : n = 30000#16 :=
  (h (compareOf_hundred fp).1).trans (compareOf_hundred fp).2

/-- Settles O40: the path picks the drive values; the wheel that is handed 100 gets the whole period and is never counted. -/
theorem turnPathsBypassTheMatrix : Obligations.TurnPathsBypassTheMatrix := by
  intro s rest hin hp hd hm fp l r q
  have hstep := step_compute s rest hin hp hd
  have h := computed_takeMove s rest
  have hmode : s.mode = .directSpeed := hm
  have hdrive := drive_of_directSpeed goalSeekFunctions s hmode
  rw [hmode] at h
  refine ⟨fun hl => ⟨_, hstep, ?_⟩, fun hl hr => ⟨_, hstep, ?_⟩, fun hl hr => ⟨_, hstep, ?_⟩⟩
  · rw [hdrive.trans (directSpeed_left s.params s.inv _ _ hl)] at h
    refine ⟨eq_of_holdsCountOf_hundred h.right, h.left, h.counted.trans ?_, h.record⟩
    simp only [turnLeft, dutyCount_hundred, BitVec.add_zero]
    rfl
  · rw [hdrive.trans (directSpeed_right s.params s.inv _ _ hl hr)] at h
    refine ⟨eq_of_holdsCountOf_hundred h.left, h.right, h.counted.trans ?_, h.record⟩
    simp only [turnRight, dutyCount_hundred, BitVec.add_zero]
    rfl
  · rw [hdrive.trans (directSpeed_straight s.params s.inv _ _ hl hr)] at h
    exact ⟨h.left, h.right, h.counted, h.record⟩

/-! ### What the drive logic and the gripper read -/

/-- A slot of the snapshot depends on its own two halves alone. -/
theorem snapSlot_congr (s : State) (u : Vector U16 26) (i : Fin 10)
    (hlo : u[2 * i.val] = s.snap[2 * i.val]) (hhi : u[2 * i.val + 1] = s.snap[2 * i.val + 1]) :
    ({ s with snap := u } : State).snapSlot i = s.snapSlot i :=
  congrArg₂ joinHalves hhi hlo

/-- The pose of the snapshot depends on the halves from 20 on alone. -/
theorem snapPose_congr (s : State) (u : Vector U16 26) (h : ∀ k : Fin 26, 20 ≤ k.val → u[k.val] = s.snap[k.val]) :
    ({ s with snap := u } : State).snapPose = s.snapPose := by
  rw [State.snapPose, State.snapPose, Pose.mk.injEq]
  exact ⟨congrArg₂ joinHalves (h 21 (by decide)) (h 20 (by decide)),
    congrArg₂ joinHalves (h 23 (by decide)) (h 22 (by decide)),
    congrArg₂ joinHalves (h 25 (by decide)) (h 24 (by decide))⟩

/-- Settles O41: halves 8 and 9 are those of SNAP[4], which the gripper alone reads. -/
theorem driveAndGripperReadDifferentSlots : Obligations.DriveAndGripperReadDifferentSlots := by
  intro g s u
  refine ⟨fun h => ?_, fun hlo hhi => ?_⟩
  · have hslot (i : Fin 10) (hi : i ≠ slotGrip) : ({ s with snap := u } : State).snapSlot i = s.snapSlot i := by
      have hval : i.val ≠ 4 := fun hc => hi (Fin.ext hc)
      exact snapSlot_congr s u i
        (h ⟨2 * i.val, by omega⟩ (show 2 * i.val ≠ 8 by omega) (show 2 * i.val ≠ 9 by omega))
        (h ⟨2 * i.val + 1, by omega⟩ (show 2 * i.val + 1 ≠ 8 by omega) (show 2 * i.val + 1 ≠ 9 by omega))
    have hpose := snapPose_congr s u fun k hk => h k (by omega) (by omega)
    have hmode : ({ s with snap := u } : State).mode = s.mode := by
      rw [State.mode, State.mode, hslot slotTe (by decide), hslot slotGx (by decide)]
    refine ⟨?_, hmode⟩
    simp (disch := decide) only [State.drive, hmode, hpose, hslot]
  · rw [State.grip, State.grip, snapSlot_congr s u slotGrip hlo hhi]

end Sys2Proof.Machine
end

section
/-! A tick in progress computes: with the schedule used up each step samples one more half, and once all 26 are sampled
the next step is the compute step (42_dispatch.md R140, R167; 70_reset_and_hazards.md R250). The placeholder ticks (R165, R166). -/

namespace Sys2Proof.Machine

open Sys2Proof.Config

/-! ### The halves still to be sampled -/

theorem mem_unsampled_iff (s : State) (k : Fin 26) : k ∈ s.unsampled ↔ s.snapDone.getLsbD k.val = false := by
  simp [State.unsampled]

theorem snapDone_of_unsampled_nil (s : State) (h : s.unsampled = []) : s.snapDone = BitVec.allOnes 26 :=
  snapDone_eq_allOnes fun k => by
    rw [← Bool.not_eq_false, ← mem_unsampled_iff, h]
    exact List.not_mem_nil

/-- Whatever order the samplings take, the tick agent's pick is enabled (20_memory.md R58). -/
theorem freePick_mem_unsampled (s : State) (h : s.unsampled ≠ []) : freePick s ∈ s.unsampled := by
  have hlt : freeOrder s.draws % s.unsampled.length < s.unsampled.length :=
    Nat.mod_lt _ (List.length_pos_iff.2 h)
  rw [freePick, List.getD_eq_getElem _ _ hlt]
  exact List.getElem_mem hlt

/-- Sampling a half that is missing leaves fewer missing. -/
theorem Samples.length_unsampled_lt {bits : Set (Fin 26)} {s t : State} (h : Samples bits s t) {k : Fin 26} (hk : k ∈ bits)
    (hmissing : k ∈ s.unsampled) : t.unsampled.length < s.unsampled.length := by
  have hsub : t.unsampled.Sublist s.unsampled := List.monotone_filter_right _ fun j hj => by
    rw [Bool.not_eq_true'] at hj ⊢
    exact Bool.eq_false_iff.2 fun hs => Bool.eq_false_iff.1 hj (h.done_of_done hs)
  refine Nat.lt_of_le_of_ne hsub.length_le fun hlen => ?_
  have hk' : k ∈ t.unsampled := hsub.eq_of_length hlen ▸ hmissing
  rw [mem_unsampled_iff, h.done k hk] at hk'
  cases hk'

/-- A step of the tick agent that samples: one more half at least is sampled, and of the rest only what sampling may touch
has changed. -/
theorem exists_step_samples (s : State) (hin : s.input = []) (hp : s.tickPhase = .sampling) (h : s.unsampled ≠ []) :
    ∃ t, step s = .next t ∧ t.unsampled.length < s.unsampled.length ∧
      t = { s with snap := t.snap, snapDone := t.snapDone, draws := t.draws, statusPort := none } := by
  have hmem := freePick_mem_unsampled (clearPort s) h
  have hd : s.snapDone ≠ BitVec.allOnes 26 := fun hd => by
    rw [mem_unsampled_iff, clearPort_snapDone, hd, BitVec.getLsbD_allOnes, decide_eq_true (Fin.isLt _)] at hmem
    cases hmem
  have hsamples := samples_sampleStep (freePick (clearPort s)) { clearPort s with draws := s.draws + 1 }
  refine ⟨_, ?_, hsamples.length_unsampled_lt (.inl rfl) hmem, hsamples.frame⟩
  rw [step_nil s hin, tickAgent_samples (clearPort s) hp hd]
  rfl

theorem step_nil_computes (s : State) (hin : s.input = []) (hp : s.tickPhase = .sampling)
    (hd : s.snapDone = BitVec.allOnes 26) : step s = .next (compute (clearPort s)) := by
  rw [step_nil s hin, tickAgent_computes (clearPort s) hp hd]

/-- With `n` halves missing the tick computes within `n + 1` steps, on a state that sampling alone has changed. -/
theorem exists_stepN_compute (n : Nat) (s : State) (hin : s.input = []) (hp : s.tickPhase = .sampling)
    (hn : s.unsampled.length ≤ n) :
    ∃ k u, k ≤ n + 1 ∧ stepN k s = .next (compute u) ∧
      u = { s with snap := u.snap, snapDone := u.snapDone, draws := u.draws, statusPort := none } := by
  by_cases hnil : s.unsampled = []
  · have hstep := step_nil_computes s hin hp (snapDone_of_unsampled_nil s hnil)
    exact ⟨1, clearPort s, Nat.le_add_left 1 n, stepN_of_step 0 _ _ hstep, rfl⟩
  · obtain ⟨t, hstep, hlt, hframe⟩ := exists_step_samples s hin hp hnil
    cases n with
    | zero => omega
    | succ n =>
      obtain ⟨k, u, hk, hrun, hu⟩ := exists_stepN_compute n t (by rw [hframe, hin]) (by rw [hframe, hp]) (by omega)
      refine ⟨k + 1, u, Nat.succ_le_succ hk, (stepN_of_step k _ _ hstep).trans hrun, ?_⟩
      rw [hu, hframe]

theorem length_unsampled_le (s : State) : s.unsampled.length ≤ 26 :=
  (List.length_filter_le _ _).trans_eq List.length_finRange

/-- Settles O48: at most 26 halves are missing, and the record is the compute step's own. -/
theorem aTickInProgressAlwaysComputes : Obligations.ATickInProgressAlwaysComputes := by
  intro s hin hp
  obtain ⟨n, u, hn, hrun, hu⟩ := exists_stepN_compute 26 s hin hp (length_unsampled_le s)
  have hrecord := (computed_compute u).record
  have htrace : u.trace = s.trace := by rw [hu]
  rw [htrace] at hrecord
  refine ⟨n, compute u, u.mode, _, _, _, _, _, _, hn, hrun, hrecord, ?_, ?_, ?_⟩
  · rw [compute_slots, hu]
  · rw [compute_input, hu, hin]
  · rw [compute_tickPhase, hu]

/-! ### The placeholder ticks -/

/-- Settles O44: both arms of `exec` answer with the state they are given. -/
theorem thePlaceholderTicksChangeNothing : Obligations.ThePlaceholderTicksChangeNothing := fun _ => ⟨rfl, rfl⟩

end Sys2Proof.Machine
end

section
/-! SET_DUTY and the duty mapper (43_pwm.md R180 to R189): each event writes its own channel, and a percent in range gives a
count of at most PERIOD. -/

namespace Sys2Proof.Machine

open Sys2Proof.Config

/-! ### SET_DUTY -/

theorem setDuty_trace (c : Channel) (p : F32) (s : State) : (setDuty c p s).trace = s.trace ++ [.duty c p] := by
  simp [setDuty]

/-- What SET_DUTY leaves as it is: everything but the compare registers, the counter, the count of draws and the trace
(43_pwm.md R185). -/
theorem setDuty_frame (c : Channel) (p : F32) (s : State) :
    setDuty c p s =
      { s with cmp1 := (setDuty c p s).cmp1, cmp2 := (setDuty c p s).cmp2, cmp3 := (setDuty c p s).cmp3
               cmp4 := (setDuty c p s).cmp4, trace := (setDuty c p s).trace, draws := (setDuty c p s).draws
               diagDutyOor := (setDuty c p s).diagDutyOor } := by
  rw [setDuty_trace]
  exact congrArg (emit _) (driveChannel_frame c p s)

/-- SET_DUTY of a percent in range (43_pwm.md R180). -/
theorem setDuty_in (c : Channel) (p : F32) (s : State) (h : dutyOutOfRange s.params.fp p = false) :
    setDuty c p s = emit (.duty c p) (s.setCmp c (compareOf s.params.fp p)) := by
  rw [setDuty, driveChannel_in c p s h]

/-- SET_DUTY of a percent out of range (43_pwm.md R181). -/
theorem setDuty_out (c : Channel) (p : F32) (s : State) (h : dutyOutOfRange s.params.fp p = true) :
    setDuty c p s = emit (.duty c p)
      { s.setCmp c (freeCompare s.draws) with draws := s.draws + 1, diagDutyOor := s.diagDutyOor + 1#32 } := by
  rw [setDuty, driveChannel_out c p s h]

/-- The mapper's write of a duty out of range, at its own channel. -/
theorem cmp_driveChannel_out (c : Channel) (p : F32) (s : State) (h : dutyOutOfRange s.params.fp p = true) :
    (driveChannel c p s).cmp c = freeCompare s.draws := by
  rw [driveChannel_out c p s h]
  cases c <;> rfl

/-- Settles O19: the mapper writes the count and counts nothing, and the record is all that follows. -/
theorem setDutyInRangeWritesItsChannel : Obligations.SetDutyInRangeWritesItsChannel := by
  intro c p s hin
  have hwritten := setDuty_in c p s hin
  have hcount : (setDuty c p s).cmp c = compareOf s.params.fp p := by simp [hwritten]
  have hdraws : (setDuty c p s).draws = s.draws := by simp [hwritten]
  have hcounter : (setDuty c p s).diagDutyOor = s.diagDutyOor := by simp [hwritten]
  have hframe := setDuty_frame c p s
  rw [hdraws, hcounter] at hframe
  exact ⟨setDuty c p s, exec_dutyEvent c p s, hcount, fun d hd => setDuty_cmp_other c d p s hd, setDuty_trace c p s,
    fun _ => by rw [setDuty_slots], hframe⟩

/-- Settles O20: the mapper draws the count and counts the percent, and the record is all that follows. -/
theorem setDutyOutOfRangeIsCounted : Obligations.SetDutyOutOfRangeIsCounted := by
  intro c p s hp
  have hout : dutyOutOfRange s.params.fp p = true := by simpa [dutyOutOfRange, or_assoc] using hp
  have hwritten := setDuty_out c p s hout
  have hcounter : (setDuty c p s).diagDutyOor = s.diagDutyOor + 1#32 := by simp [hwritten]
  have hcount : (setDuty c p s).cmp c = freeCompare s.draws := cmp_driveChannel_out c p s hout
  have hdraws : (setDuty c p s).draws = s.draws + 1 := by simp [hwritten]
  exact ⟨setDuty c p s, exec_dutyEvent c p s, hcounter, hcount, hdraws, fun d hd => setDuty_cmp_other c d p s hd,
    setDuty_trace c p s, setDuty_frame c p s⟩

/-! ### The truncation -/

/-- The number of a magnitude by the significand and the scale that arithmetic reads under IEEE. -/
theorem numberOf_magnitudeOf (x : F32) : (numberOf (magnitudeOf x) : ℚ) = significandOf .ieee x * 2 ^ scaleOf x :=
  mul_left_cancel₀ (signFactor_ne_zero (signOf x)) ((valueOf_eq x).symm.trans (valueOf_eq_significandOf x))

theorem floor_mul_two_zpow (m : Nat) (e : Int) : ⌊(m : ℚ) * 2 ^ e⌋₊ = m * 2 ^ e.toNat / 2 ^ (-e).toNat := by
  have hscale : (2 : ℚ) ^ e = 2 ^ e.toNat / 2 ^ (-e).toNat := by
    rw [← zpow_natCast, ← zpow_natCast, ← zpow_sub₀ two_ne_zero]
    congr 1
    omega
  rw [hscale, ← mul_div_assoc]
  exact_mod_cast Nat.floor_div_eq_div (K := ℚ) (m * 2 ^ e.toNat) (2 ^ (-e).toNat)

/-- `trunc_u16` takes the integer part of the magnitude, modulo 2^16 (00_scope.md R8, log entry 18). -/
theorem truncU16_eq_floor (x : F32) : truncU16 x = BitVec.ofNat 16 ⌊(numberOf (magnitudeOf x) : ℚ)⌋₊ := by
  rw [numberOf_magnitudeOf, floor_mul_two_zpow]
  by_cases hexp : exponentOf x = 0
  · have hsmall : significandOf .ieee x / 2 ^ 149 = 0 := Nat.div_eq_of_lt ((significandOf_lt .ieee x).trans (by decide))
    simpa [truncU16, scaleOf, hexp] using congrArg (BitVec.ofNat 16) hsmall.symm
  · simp [truncU16, significandOf, scaleOf, hexp]

theorem toNat_truncU16 (x : F32) (h : (numberOf (magnitudeOf x) : ℚ) < 65536) :
    (truncU16 x).toNat = ⌊(numberOf (magnitudeOf x) : ℚ)⌋₊ := by
  have hlt : ⌊(numberOf (magnitudeOf x) : ℚ)⌋₊ < 2 ^ 16 := (Nat.floor_lt (numberOf_nonneg _)).2 (by exact_mod_cast h)
  rw [truncU16_eq_floor, BitVec.toNat_ofNat, Nat.mod_eq_of_lt hlt]

/-- A number that is not negative is that of its magnitude, -0.0 among them (log entry 18). -/
theorem valueOf_eq_numberOf (x : F32) (h : 0 ≤ valueOf x) : valueOf x = numberOf (magnitudeOf x) := by
  have hmag := numberOf_nonneg (K := ℚ) (magnitudeOf x)
  have hsigned := signFactor_mul_valueOf false x
  rw [show signFactor false = 1 from rfl, one_mul] at hsigned
  rcases hsigned with hpos | hneg <;> linarith

/-! ### The count of a percent in range -/

/-- Rounding does not pass a number of the format. -/
theorem RoundsTo.le_of_le_numberOf {K : Type} [Field K] [LinearOrder K] [IsStrictOrderedRing K] {mag c : Nat} {w : K}
    (h : RoundsTo mag w) (hc : c < 0x7F800000) (hw : w ≤ numberOf c) : mag ≤ c := by
  by_contra! hlt
  have hmid := midpointOf_eq (K := K) c
  have hnext := numberOf_strictMono (K := K) (Nat.lt_succ_self c)
  rcases (h.2 c hc).1 hlt with hpass | ⟨htie, -⟩ <;> linarith

/-- Flushing a result never makes its magnitude greater (92_eei_decisions.md D3). -/
theorem magnitudeOf_roundF32_le (fp : FpSubnormal) (s : Bool) (m : Nat) (e : Int) :
    magnitudeOf (roundF32 fp s m e) ≤ roundMagnitude m e := by
  have hflush := flushResult_le fp (roundMagnitude m e)
  have hround := roundMagnitude_le m e
  rwa [roundF32, magnitudeOf_withSign _ _ (by omega)]

theorem significandOf_le_ieee (fp : FpSubnormal) (x : F32) : significandOf fp x ≤ significandOf .ieee x := by
  unfold significandOf
  split
  · cases flushesOperands fp <;> simp [flushesOperands]
  · exact le_rfl

/-- The number that arithmetic reads in an operand is at most the one its magnitude stands for. -/
theorem operand_le_numberOf (fp : FpSubnormal) (x : F32) :
    (significandOf fp x : ℚ) * 2 ^ scaleOf x ≤ numberOf (magnitudeOf x) := by
  have hle := significandOf_le_ieee fp x
  rw [numberOf_magnitudeOf]
  gcongr

/-- No setting flushes a normal operand. -/
theorem operand_eq_numberOf (fp : FpSubnormal) (x : F32) (h : 0x00800000 ≤ magnitudeOf x) :
    (significandOf fp x : ℚ) * 2 ^ scaleOf x = numberOf (magnitudeOf x) := by
  have hexp : exponentOf x ≠ 0 := by
    rw [exponentOf_eq]
    omega
  rw [numberOf_magnitudeOf, significandOf, significandOf, if_neg hexp, if_neg hexp]

/-- A product is at most the number of the format that the exact product of the magnitudes is at most. -/
theorem magnitudeOf_fmul_le (fp : FpSubnormal) {a b : F32} {c : Nat} (ha : isFinite a = true) (hb : isFinite b = true)
    (hc : c < 0x7F800000) (h : (numberOf (magnitudeOf a) : ℚ) * numberOf (magnitudeOf b) ≤ numberOf c) :
    magnitudeOf (fmul fp a b) ≤ c := by
  rw [fmul_fin_fin (unpack_of_isFinite fp a ha) (unpack_of_isFinite fp b hb)]
  refine (magnitudeOf_roundF32_le _ _ _ _).trans ((roundsTo_roundMagnitude _ _).le_of_le_numberOf (K := ℚ) hc ?_)
  calc ((significandOf fp a * significandOf fp b : Nat) : ℚ) * 2 ^ (scaleOf a + scaleOf b)
      = (significandOf fp a * 2 ^ scaleOf a) * (significandOf fp b * 2 ^ scaleOf b) := by
        rw [zpow_add₀ two_ne_zero]
        push_cast
        ring
    _ ≤ numberOf (magnitudeOf a) * numberOf (magnitudeOf b) := by
        gcongr
        · exact numberOf_nonneg _
        · exact operand_le_numberOf fp a
        · exact operand_le_numberOf fp b
    _ ≤ numberOf c := h

/-- A quotient by a normal number is at most the number of the format that the exact quotient of the magnitudes is at
most. -/
theorem magnitudeOf_fdiv_le (fp : FpSubnormal) {a b : F32} {c : Nat} (ha : isFinite a = true) (hb : isFinite b = true)
    (hnormal : 0x00800000 ≤ magnitudeOf b) (hc : c < 0x7F800000)
    (h : (numberOf (magnitudeOf a) : ℚ) / numberOf (magnitudeOf b) ≤ numberOf c) : magnitudeOf (fdiv fp a b) ≤ c := by
  have hne := significandOf_ne_zero fp b (.inl hnormal)
  rw [fdiv_fin_fin (unpack_of_isFinite fp a ha) (unpack_of_isFinite fp b hb), if_neg hne]
  refine (magnitudeOf_roundF32_le _ _ _ _).trans
    ((roundsTo_quotient _ _ _ _ (significandOf_lt fp b) (Nat.pos_of_ne_zero hne)).le_of_le_numberOf hc ?_)
  rw [operand_eq_numberOf fp b hnormal]
  refine le_trans ?_ h
  gcongr
  · exact numberOf_nonneg _
  · exact operand_le_numberOf fp a

theorem numberOf_period : (numberOf (magnitudeOf periodF32) : ℚ) = 30000 := by
  norm_num [numberOf, unitsOf, placeOf, magnitudeOf, periodF32]

theorem numberOf_hundred : (numberOf (magnitudeOf hundred) : ℚ) = 100 := by
  norm_num [numberOf, unitsOf, placeOf, magnitudeOf, hundred]

/-- The greatest product of PERIOD and a percent in range is a number of the format. -/
theorem numberOf_period_mul_hundred : (numberOf 0x4A371B00 : ℚ) = 3000000 := by
  norm_num [numberOf, unitsOf, placeOf]

/-- A percent in range by what comparisons order it by, the flush of compares among them (43_pwm.md R180). -/
theorem dutyOutOfRange_eq_false_iff (fp : FpSubnormal) (p : F32) :
    dutyOutOfRange fp p = false ↔
      isNan p = false ∧ 0 ≤ compareKey fp p ∧ compareKey fp p ≤ magnitudeOf hundred := by
  have hkey : compareKey fp hundred = magnitudeOf hundred := compareKey_of_not_subnormal fp hundred (.inr (by decide))
  have hnan : isNan hundred = false := by decide
  cases hp : isNan p <;> simp [dutyOutOfRange, fgt, flt, hp, hkey, hnan]

/-- A percent in range is no greater than 100 in magnitude, also where the comparison flushes it to 0 (log entry 9). -/
theorem magnitudeOf_le_hundred (fp : FpSubnormal) (p : F32) (h : dutyOutOfRange fp p = false) :
    magnitudeOf p ≤ magnitudeOf hundred := by
  obtain ⟨-, hlow, hhigh⟩ := (dutyOutOfRange_eq_false_iff fp p).1 h
  by_cases hsmall : magnitudeOf p < 0x00800000
  · exact hsmall.le.trans (by decide)
  · rw [compareKey_of_not_subnormal fp p (.inr (not_lt.1 hsmall)), signedInt] at hlow hhigh
    split_ifs at hlow hhigh <;> omega

/-- A percent in range is multiplied by PERIOD to at most 3000000 (0x4A371B00), and that divided by 100 is at most PERIOD
(43_pwm.md R180). -/
theorem magnitudeOf_period_mul_div_hundred_le (fp : FpSubnormal) (p : F32) (h : dutyOutOfRange fp p = false) :
    magnitudeOf (fdiv fp (fmul fp periodF32 p) hundred) ≤ magnitudeOf periodF32 := by
  have hmag := magnitudeOf_le_hundred fp p h
  have hpercent := (numberOf_strictMono (K := ℚ)).monotone hmag
  have hfinite : isFinite p = true := (isFinite_iff p).2 (hmag.trans_lt (by decide))
  have hproduct : magnitudeOf (fmul fp periodF32 p) ≤ 0x4A371B00 :=
    magnitudeOf_fmul_le fp (by decide) hfinite (by decide) (by
      rw [numberOf_hundred] at hpercent
      rw [numberOf_period, numberOf_period_mul_hundred]
      linarith)
  have hnumber := (numberOf_strictMono (K := ℚ)).monotone hproduct
  refine magnitudeOf_fdiv_le fp ((isFinite_iff _).2 (hproduct.trans_lt (by decide))) (by decide) (by decide) (by decide) ?_
  rw [numberOf_period_mul_hundred] at hnumber
  rw [numberOf_period, numberOf_hundred]
  linarith

/-- Settles O21: rounding is monotone and 3000000 and 30000 are numbers of the format, so that neither the product nor the
quotient rounds past them; the truncation is the integer part. -/
theorem countsInRangeStayWithinThePeriod : Obligations.CountsInRangeStayWithinThePeriod := by
  refine ⟨fun fp p hp => ?_, fun x _ hnonneg hle => ?_⟩
  · have hcount := (numberOf_strictMono (K := ℚ)).monotone (magnitudeOf_period_mul_div_hundred_le fp p hp)
    rw [numberOf_period] at hcount
    rw [compareOf, toNat_truncU16 _ (by linarith)]
    exact Nat.floor_le_of_le (by exact_mod_cast hcount)
  · rw [valueOf_eq_numberOf x hnonneg] at hle ⊢
    rw [toNat_truncU16 x (by linarith)]
    exact ⟨Nat.floor_le (numberOf_nonneg _), Nat.lt_floor_add_one _⟩

/-! ### The published counts -/

/-- Settles O22: each count and each comparison is evaluated; 100 percent is `compareOf_hundred`. -/
theorem countsOfPublishedDuties : Obligations.CountsOfPublishedDuties := by
  obtain ⟨hin, hcount⟩ := compareOf_hundred .ieee
  refine ⟨?_, ?_, hcount, ?_, ?_, ?_, ?_, hin, ?_, ?_, ?_⟩ <;> decide

end Sys2Proof.Machine
end

section
/-! TICK_1MS of an idle block, and of a block that has a tick in progress (60_exceptions.md R205, R206). -/

namespace Sys2Proof.Machine

/-- A scheduled TICK_1MS during a tick latches, whatever the host still owes: it is no host command. -/
theorem step_tick1ms_sampling (s : State) (split : Option Half) (rest : List Move)
    (hin : s.input = .event split [0x40#8] :: rest) (hp : s.tickPhase = .sampling) :
    step s = .next { arrive split rest s with tickPending := true } := by
  rw [step_event s split _ rest .tick1ms hin rfl nofun, exec_tick1ms_sampling (arrive split rest s) hp]

/-- Arrivals during one tick merge: the second and every later one finds the latch set and leaves the state of the first. -/
theorem stepN_tick1ms_sampling (n : Nat) (s : State) (rest : List Move)
    (hin : s.input = List.replicate (n + 1) (.event none [0x40#8]) ++ rest) (hp : s.tickPhase = .sampling) :
    stepN (n + 1) s = .next { arrive none rest s with tickPending := true } := by
  induction n generalizing s with
  | zero => exact stepN_of_step 0 _ _ (step_tick1ms_sampling s none rest hin hp)
  | succ n ih =>
    have hfirst := step_tick1ms_sampling s none _ hin hp
    exact (stepN_of_step (n + 1) _ _ hfirst).trans (ih _ rfl hp)

/-- Settles O42: the entry to a tick is the whole event. -/
theorem tickEntryChangesOnlyPhaseAndMask : Obligations.TickEntryChangesOnlyPhaseAndMask := exec_tick1ms_idle

/-- Settles O43: an arrival sets the latch, a further one finds it set, and the compute step trades it for the next tick. -/
theorem anOverrunLatchesOnePendingTick : Obligations.AnOverrunLatchesOnePendingTick := by
  intro s hp
  refine ⟨exec_tick1ms_sampling s hp, fun n rest => stepN_tick1ms_sampling n _ rest rfl hp, fun rest hin hd hpend => ?_⟩
  have hlatched : (takeMove rest s).tickPending = true := hpend
  refine ⟨_, step_compute s rest hin hp hd, ?_, ?_, compute_tickPending _⟩
  · rw [compute_tickPhase, if_pos hlatched]
  · rw [compute_snapDone_eq, if_pos hlatched]

end Sys2Proof.Machine
end

section
/-! The compute step overwrites the compare registers without reading them (70_reset_and_hazards.md R247): a direct write of a
channel is lost in the mapper's own write of that channel, and passes through those of the other three. -/

namespace Sys2Proof.Machine

/-- The mapper's write of a channel overwrites what that channel held, and does not see what another one holds. -/
theorem driveChannel_setCmp (c d : Channel) (p : F32) (n : U16) (s : State) :
    driveChannel c p (s.setCmp d n) = if d = c then driveChannel c p s else (driveChannel c p s).setCmp d n := by
  rw [driveChannel, driveChannel, setCmp_params]
  cases dutyOutOfRange s.params.fp p <;> cases c <;> cases d <;> rfl

/-- The four writes of a compute step lose a direct write: those of other channels pass it on, that of its own drops it. -/
theorem driveAll_setCmp (d : Drive) (q : GripDuties) (c : Channel) (n : U16) (s : State) :
    driveAll d q (s.setCmp c n) = driveAll d q s := by
  cases c <;> simp [driveAll, driveChannel_setCmp]

/-- What a compute step hands on comes from the snapshot and the constants, so that a direct write leaves no mark in it. -/
theorem compute_setCmp (c : Channel) (n : U16) (s : State) : compute (s.setCmp c n) = compute s := by
  have hmode : (s.setCmp c n).mode = s.mode := by simp [State.mode, State.snapSlot]
  have hdrive : (s.setCmp c n).drive Config.goalSeekFunctions = s.drive Config.goalSeekFunctions := by
    simp [State.drive, hmode, State.snapSlot, State.snapPose]
  have hgrip : (s.setCmp c n).grip = s.grip := by simp [State.grip, State.snapSlot]
  simp only [compute, computeWith, hmode, hdrive, hgrip, driveAll_setCmp]

/-- A scheduled compute step loses a direct write of a channel. -/
theorem step_compute_setCmp (c : Channel) (n : U16) (s : State) (rest : List Move) (hin : s.input = .compute :: rest)
    (hp : s.tickPhase = .sampling) (hd : s.snapDone = BitVec.allOnes 26) : step (s.setCmp c n) = step s := by
  have htake : takeMove rest (s.setCmp c n) = (takeMove rest s).setCmp c n := by cases c <;> rfl
  rw [step_compute s rest hin hp hd,
    step_compute (s.setCmp c n) rest (by rwa [setCmp_input]) (by rwa [setCmp_tickPhase]) (by rwa [setCmp_snapDone]),
    htake, compute_setCmp]

/-- Settles O50: the four direct writes are lost one after another. -/
theorem computeOverwritesDirectWrites : Obligations.ComputeOverwritesDirectWrites := by
  intro s rest n1 n2 n3 n4 hin hp hd
  let s1 := s.setCmp .rightWheel n1
  let s2 := s1.setCmp .leftWheel n2
  let s3 := s2.setCmp .gripForward n3
  calc step (s3.setCmp .gripBackward n4)
    _ = step s3 := step_compute_setCmp .gripBackward n4 s3 rest hin hp hd
    _ = step s2 := step_compute_setCmp .gripForward n3 s2 rest hin hp hd
    _ = step s1 := step_compute_setCmp .leftWheel n2 s1 rest hin hp hd
    _ = step s := step_compute_setCmp .rightWheel n1 s rest hin hp hd

end Sys2Proof.Machine
end

section
/-! RESET and the first tick after it (70_reset_and_hazards.md R230, R233, R240): a snapshot of zeros selects DirectSpeed, its
matrix path, and the gripper's forward channel. -/

namespace Sys2Proof.Machine

open Sys2Proof.Config

/-! ### RESET -/

/-- RESET reads none of what it overwrites. -/
theorem resetBlock_resetBlock (s : State) : resetBlock (resetBlock s) = resetBlock s := rfl

/-- Settles O51: each field of the channel is the one that `State.reset` lists, and the other fields are untouched. -/
theorem resetRestoresTheChannel : Obligations.ResetRestoresTheChannel := fun s =>
  ⟨resetBlock s, rfl, congrArg Host.Outcome.next (resetBlock_resetBlock s), readSlot_nil, fun _ => rfl, rfl,
    fun c => by cases c <;> rfl, rfl, rfl, rfl, rfl, rfl, rfl, rfl⟩

/-! ### A snapshot of zeros -/

theorem fgt_zero_zero (fp : FpSubnormal) : fgt fp zero zero = false := by simp [fgt, flt]

theorem feq_zero_zero (fp : FpSubnormal) : feq fp zero zero = true := by simp [feq]

section
variable {s : State} (hzero : ∀ i, s.snapSlot i = zero)
include hzero

theorem mode_of_snapSlot_zero : s.mode = .directSpeed := by
  rw [State.mode, hzero, hzero, selectMode_directSpeed_iff, fgt_zero_zero]
  exact ⟨Bool.false_ne_true, feq_zero_zero _⟩

/-- No turn is asked for, so that the matrix path remains. -/
theorem drive_of_snapSlot_zero (g : GoalSeekFunctions) : s.drive g = matrixDrive s.params s.inv zero zero := by
  rw [drive_of_directSpeed g s (mode_of_snapSlot_zero hzero), hzero, hzero, hzero, hzero,
    directSpeed_straight _ _ _ _ (fgt_zero_zero _) (fgt_zero_zero _)]

theorem grip_of_snapSlot_zero : s.grip = ⟨s.params.gripDuty, zero⟩ := by
  rw [State.grip, hzero, gripDuties, if_pos (feq_zero_zero _)]

end

/-! ### The first tick -/

/-- 0 percent is in range, and its count is 0, for every FP_SUBNORMAL (43_pwm.md R180). -/
theorem compareOf_zero (fp : FpSubnormal) : dutyOutOfRange fp zero = false ∧ compareOf fp zero = 0#16 := by
  cases fp with
  | ieee => decide
  | ftz operands compares => cases operands <;> cases compares <;> decide

/-- Settles O53: with no write of the host the 26 samplings see the zeros that reset left, and the compute step that follows
takes the path of a snapshot of zeros. -/
theorem theFirstTickAfterResetDrivesTheGripper : Obligations.TheFirstTickAfterResetDrivesTheGripper := by
  intro order hperm
  obtain ⟨t, hrun, hdone, hphase, hslots, -, -, hinput, hframe⟩ :=
    withoutARaceTheSnapshotIsTheSlots { State.reset with input := _ } order [.compute] hperm rfl rfl
  have hzero (i : Fin 10) : t.snapSlot i = zero := (hslots i).trans (readSlot_nil i)
  have hparams : t.params = State.reset.params := by rw [hframe]
  have hinv : t.inv = State.reset.inv := by rw [hframe]
  have htrace : t.trace = [] := by rw [hframe]; rfl
  have hcomputed := computed_takeMove t []
  rw [mode_of_snapSlot_zero hzero, drive_of_snapSlot_zero hzero, grip_of_snapSlot_zero hzero] at hcomputed
  obtain ⟨hright, hleft, hforward, hbackward, -, hrecord⟩ := hcomputed
  rw [hparams] at hright hleft hforward hbackward hrecord
  rw [hinv] at hright hleft hrecord
  rw [htrace] at hrecord
  have hstep := step_compute t [] hinput hphase hdone
  refine ⟨_, (stepN_add 27 1 _ t hrun).trans (stepN_of_step 0 _ _ hstep), ⟨hrecord, hright, hleft, hforward⟩,
    (hbackward (compareOf_zero _).1).trans (compareOf_zero _).2, ?_, ?_⟩
  · rw [compute_diagTicksSinceWrite, countTick_diagTicksSinceWrite, takeMove_diagTicksSinceWrite, hframe]
    rfl
  · rw [compute_idle_iff, takeMove_tickPending, hframe]
    rfl

end Sys2Proof.Machine
end

section
/-! A SET_SLOT in one piece (40_host_commands.md R90 to R100), and the invariant at reset (10_state.md section 1). -/

namespace Sys2Proof.Machine

/-- A slot write stores no byte but the four of its slot (20_memory.md R52). -/
theorem readByte_writeSlot_outside (m : Memory) (i : Fin 10) (v : F32) (a : Nat) (hw : Memory.wf m = true)
    (ha : a < halfOffset i .lo ∨ halfOffset i .lo + 4 ≤ a) :
    Memory.readByte (Memory.writeSlot m i v) a = Memory.readByte m a := by
  have hhi : halfOffset i .hi = halfOffset i .lo + 2 := rfl
  rw [Memory.writeSlot, readByte_writeHalf_outside _ i .hi _ a (wf_writeHalf _ _ _ _ hw) (by omega),
    readByte_writeHalf_outside _ i .lo _ a hw (by omega)]

theorem writeWholeSlot_slot_ne (i j : Fin 10) (v : F32) (s : State) (hwf : Memory.wf s.slots = true) (hne : j ≠ i) :
    (writeWholeSlot i v s).slot j = s.slot j :=
  (readSlot_writeSlot s.slots i j v hwf).trans (if_neg hne)

/-- Settles O10: the event is the write in one piece, whose rules say what it stores. -/
theorem setSlotWritesItsSlot : Obligations.SetSlotWritesItsSlot := by
  intro i v s hwf hwhole
  refine ⟨writeWholeSlot i v s, ?_, writeWholeSlot_slot_same i v s hwf, ?_, rfl, rfl, ?_, rfl⟩
  · rw [exec_slotEvent, setSlot_whole i v s hwhole]
  · exact fun j hne => writeWholeSlot_slot_ne i j v s hwf hne
  · exact fun a ha => readByte_writeSlot_outside s.slots i v a hwf ha

/-- Settles O55: after reset no byte is listed, CURSOR is 0, no tick is pending and the host owes nothing. -/
theorem resetMeetsTheInvariant : Obligations.ResetMeetsTheInvariant where
  slots_wf := rfl
  cursor_lt := Nat.zero_lt_succ 9
  pending_only_in_tick := fun _ => rfl
  half_only_if_torn := nofun

end Sys2Proof.Machine
end
